-- ==== Sys2Proof/Word.lean ====
section
/-! DEFINITION. The plain types every other file uses: bytes, line levels, durations, and the fixed sets of
names the spec gives (lines, segments, digit positions, status codes). -/

namespace Sys2Proof

abbrev Byte := BitVec 8

/-- A line level: `false` is 0 = low, `true` is 1 = high (10_state.md R21). -/
abbrev Level := Bool

/-- The 5 bytes of a frame, byte 0 first (10_state.md R23). -/
abbrev Frame := Vector Byte 5

/-- A duration, a real number of seconds (00_scope.md R11), as plain data: `count` times the unit of number `unit`. Unit 0
is one second, and every other unit is a positive real number that `Config.unitSeconds` leaves free, so that every real is
`count` 1, 0 or -1 of some unit (log entry 1). Its value in seconds is `Machine.seconds`. -/
structure Duration where
  count : Rat
  unit  : Nat
  deriving DecidableEq, Repr, Inhabited

/-- A duration above zero: units are positive. -/
def Duration.positive (t : Duration) : Bool := decide (0 < t.count)

/-- A duration that is not negative. -/
def Duration.nonNegative (t : Duration) : Bool := decide (0 ≤ t.count)

/-- A duration that is not negative by its type (00_scope.md R11). -/
structure Tick where
  count : { q : Rat // 0 ≤ q }
  unit  : Nat
  deriving DecidableEq, Repr, Inhabited

/-- `n` times a tick. -/
def Tick.times (t : Tick) (n : Int) : Duration := { count := n * t.count.val, unit := t.unit }

/-- The three output lines (00_scope.md R13). -/
inductive Line where
  | data | clk | en
  deriving DecidableEq, Repr

/-- The seven segments: top, top-right, bottom-right, bottom, bottom-left, top-left, middle (30_encoding.md R80). -/
inductive Segment where
  | a | b | c | d | e | f | g
  deriving DecidableEq, Repr

/-- The three digits drawn as glyphs; hour-tens is not one of them (41_segment_map.md R142). -/
inductive DigitPosition where
  | hourOnes | minuteTens | minuteOnes
  deriving DecidableEq, Repr

/-- The names of the status codes (30_encoding.md R103). -/
inductive Status where
  | ok | invalidInput | invalidLength | invalidCharacter | transportFault | invalidCommand
  | configurationError | invalidDigit
  deriving DecidableEq, Repr

/-- A SegmentLocation: a byte and a bit of the frame, bit 0 least significant (30_encoding.md R82, 00_scope.md R10).
The fields are plain numbers so that a malformed profile can be written down and caught in LOAD. -/
structure Loc where
  byteIndex : Nat
  bitIndex  : Nat
  deriving DecidableEq, Repr, Inhabited

/-- All segments, A first. -/
def allSegments : List Segment := [.a, .b, .c, .d, .e, .f, .g]

/-- All digit positions. -/
def allPositions : List DigitPosition := [.hourOnes, .minuteTens, .minuteOnes]

end Sys2Proof
end

