-- ==== Sys2Proof/Config.lean ====
section
/-! DEFINITION. The configuration of the block: the Profile, the startup trace asset and the two further parameters
(10_state.md sections 7 and 8), and the constants without a body for what the spec leaves OPEN or unspecified. -/

namespace Sys2Proof

/-- A SegmentMap: one location for each segment (10_state.md R32). An entry may be absent, which LOAD catches. -/
structure SegmentMap where
  a : Option Loc
  b : Option Loc
  c : Option Loc
  d : Option Loc
  e : Option Loc
  f : Option Loc
  g : Option Loc
  deriving DecidableEq, Repr, Inhabited

/-- The three SegmentMaps of a profile (10_state.md R32). -/
structure DigitMaps where
  hourOnes   : SegmentMap
  minuteTens : SegmentMap
  minuteOnes : SegmentMap
  deriving DecidableEq, Repr, Inhabited

/-- Five values, one for each timing constant (10_state.md R38, R39). -/
structure Times (α : Type) where
  tAssert   : α
  tLow      : α
  tHigh     : α
  tDataIdle : α
  tFinal    : α
  deriving DecidableEq, Repr, Inhabited

/-- The five timing constants of a profile. A malformed profile may hold a negative one, which LOAD catches. -/
abbrev Timing := Times Duration

/-- The order of bits on the wire has one legal value (10_state.md R34). -/
inductive BitOrder where
  | msbFirst
  deriving DecidableEq, Repr, Inhabited

/-- The Profile (10_state.md R30 to R39). The fields with one legal value in the source and no part in any rule's
choice (idle level, asserted level, framing bit) are the constants below. -/
structure Profile where
  baseFrame : Frame
  hourTens  : Vector (List Loc) 3
  digitMaps : DigitMaps
  frameBits : Nat
  bitOrder  : BitOrder
  timing    : Timing
  deriving DecidableEq, Repr, Inhabited

/-- One row of the trace asset as a file (30_encoding.md R91). `none` in `delay` is a field that is missing or not a
number; `none` in a level is a missing field. -/
structure TraceRow where
  delay  : Option Duration
  data   : Option Nat
  clock  : Option Nat
  enable : Option Nat
  deriving DecidableEq, Repr, Inhabited

/-- The startup trace asset as it is found in LOAD (44_startup_replay.md R241, 30_encoding.md R91, R92): absent,
unreadable, a file of rows, or a ROM of 32-bit records, whose length may be unknown. -/
inductive TraceAsset where
  | missing
  | unreadable
  | file (rows : List TraceRow)
  | rom (records : List (BitVec 32))
  | romOfUnknownLength
  deriving DecidableEq, Repr, Inhabited

/-- Everything that is fixed before reset release (10_state.md R20, 00_scope.md R9). -/
structure Setup where
  profile   : Profile
  asset     : TraceAsset
  traceTick : Tick
  ioCanFail : Bool
  deriving DecidableEq, Repr, Inhabited

namespace Config

/-- The resting level of all three lines (10_state.md R35). -/
def idleLevel : Level := true

/-- The level of EN during a transfer (10_state.md R36). -/
def enableAssertedLevel : Level := false

/-- The first bit of a 41-bit transfer (10_state.md R37). -/
def framingBit : Bool := true

/-! ### OPEN parameters (92_eei_decisions.md): no value is stated, so none of these has a body (log entry 5) -/

/-- Which of the 126 admissible sets `HT1` of REF40 is (41_segment_map.md R152): the sets of bits 6 to 0 of byte 4 other
than the empty one and {6, 0}, numbered by `ht1Mask`. -/
opaque ht1 : Fin 126

/-- The five timing constants of REF40 (41_segment_map.md R159), none negative (10_state.md R38, R39). -/
opaque ref40Times : Times Tick

/-- The base frame of REV41 (41_segment_map.md R160). -/
opaque rev41BaseFrame : Frame

/-- The hour-tens sets 1 and 2 of REV41 (41_segment_map.md R160), as the bits of byte 4 that are in them: every hour-tens
location is in byte 4 and set 0 is empty in every profile (10_state.md R31). -/
opaque rev41HourTens1 : Byte

opaque rev41HourTens2 : Byte

/-- The 21 locations of REV41 (41_segment_map.md R160). -/
opaque rev41Maps : DigitMaps

/-- The five timing constants of REV41 (41_segment_map.md R160), none negative (10_state.md R38, R39). -/
opaque rev41Times : Times Tick

/-- The startup trace (10_state.md R42). -/
opaque traceAsset : TraceAsset

/-- Seconds per unit of a ROM record's delay (30_encoding.md R92). -/
opaque traceTick : Tick

/-- Whether a line write can fail (43_line_transport.md R222). -/
opaque ioCanFail : Bool

/-- The seconds of a unit of time other than the second (log entry 1): any positive real number. -/
noncomputable opaque unitSeconds : (unit : Nat) → Set.Ioi (0 : ℝ)

/-! ### Free values: what the spec calls unspecified at reset (10_state.md R45, 93_implementation_defined.md U5, U7).
Each takes the number of the run, so that two resets need not leave the same value (log entries 2 and 3). -/

/-- The level of a line at the reset that starts run `run` (70_reset_and_hazards.md R341). -/
opaque lineAtReset : (run : Nat) → Line → Level

opaque frameAtReset : (run : Nat) → Frame

/-- Bit `i` of SR as long as run `run` has not written it. -/
opaque srBitAtReset : (run : Nat) → (i : Nat) → Bool

opaque htAtReset : (run : Nat) → Fin 3

opaque hoAtReset : (run : Nat) → Fin 10

opaque mtAtReset : (run : Nat) → Fin 6

opaque moAtReset : (run : Nat) → Fin 10

end Config
end Sys2Proof
end

