-- ==== Sys2Proof/Syntax.lean ====
section
/-! DEFINITION. `Instr`: one constructor for each of the 42 rows of spec/opcode_table.json, in the table's order. -/

namespace Sys2Proof

/-- The operations of the block. The first ten are the host's commands (30_encoding.md R95 to R99); the rows with a data
format follow; the last ten are the internal operations, which have no encoding. -/
inductive Instr where
  /-- SEND_TIME (45_driver_commands.md R261). -/
  | sendTime (hours minutes : Int)
  /-- SEND_RAW (45_driver_commands.md R263): the symbols, leftmost first. -/
  | sendRaw (symbols : List Byte)
  /-- RESERVED, opcode 0x00 (45_driver_commands.md R268). -/
  | reserved00
  /-- RESERVED, opcode 0x03. -/
  | reserved03
  /-- RESERVED, opcodes 0x04 to 0x07; the operand is the opcode's low bits. -/
  | reserved04 (low : BitVec 2)
  /-- RESERVED, opcodes 0x08 to 0x0F. -/
  | reserved08 (low : BitVec 3)
  /-- RESERVED, opcodes 0x10 to 0x1F. -/
  | reserved10 (low : BitVec 4)
  /-- RESERVED, opcodes 0x20 to 0x3F. -/
  | reserved20 (low : BitVec 5)
  /-- RESERVED, opcodes 0x40 to 0x7F. -/
  | reserved40 (low : BitVec 6)
  /-- RESERVED, opcodes 0x80 to 0xFF. -/
  | reserved80 (low : BitVec 7)
  /-- GLYPH_0 to GLYPH_9: the entries of FONT (40_segment_font.md R122 to R131). -/
  | glyph0
  | glyph1
  | glyph2
  | glyph3
  | glyph4
  | glyph5
  | glyph6
  | glyph7
  | glyph8
  | glyph9
  /-- TRACE_EVENT (30_encoding.md R92): one record of the trace ROM. -/
  | traceEvent (data clock enable : Level) (delay : BitVec 29)
  /-- FRAME_REF40 (30_encoding.md R84): the three digits' lit segments as SEG7 masks and the bits (4,6) and (4,0). -/
  | frameRef40 (minuteOnes minuteTens hourOnes : BitVec 7) (h6 h0 : Bool)
  /-- WIRE_W40 (30_encoding.md R86): the 40 frame bits, the first on the wire most significant. -/
  | wireW40 (bits : BitVec 40)
  /-- WIRE_W41 (30_encoding.md R87): the framing bit 1, then the 40 frame bits. -/
  | wireW41 (bits : BitVec 40)
  /-- The status codes of 30_encoding.md R103. -/
  | statusOk
  | statusInvalidInput
  | statusInvalidLength
  | statusInvalidCharacter
  | statusTransportFault
  | statusInvalidCommand
  | statusConfigurationError
  | statusInvalidDigit
  /-- SEGFONT (40_segment_font.md R120). -/
  | segfont (digit : Int)
  /-- LOCATE (41_segment_map.md R140). -/
  | locate (position : DigitPosition) (segment : Segment)
  /-- ENCODE (42_frame_encoder.md R170). -/
  | encode (hours minutes : Int)
  /-- EXPAND of the frame in FRAME (43_line_transport.md R201). -/
  | expand
  /-- TRANSMIT of a 5-byte frame (43_line_transport.md R200). -/
  | transmit (frame : Frame)
  /-- SHIFTOUT of the bits in SR (43_line_transport.md R205). -/
  | shiftout
  /-- REPLAY of the trace (44_startup_replay.md R240). -/
  | replay
  /-- IDLE_ASSERT (44_startup_replay.md R245). -/
  | idleAssert
  /-- SETLINE (43_line_transport.md R220). -/
  | setline (id : Line) (level : Level)
  /-- DELAY (43_line_transport.md R221). -/
  | delay (t : Duration)
  deriving DecidableEq, Repr

end Sys2Proof
end

