-- ==== Sys2Proof/Machine/Formats.lean ====
section
/-! DEFINITION. The bit-level formats shared by the decoder and the machine: bit order inside a byte, SEG7 masks and the
FONT table, locations and single bits of the frame, STAT8 codes, TREC32 fields, the W40 and W41 bit sequences. -/

namespace Sys2Proof.Machine

/-! ### Bit order (20_memory.md R56) -/

/-- The bits of a byte in wire order: bit 7 first, bit 0 last. -/
def byteBits (b : Byte) : List Bool :=
  [b.getLsbD 7, b.getLsbD 6, b.getLsbD 5, b.getLsbD 4, b.getLsbD 3, b.getLsbD 2, b.getLsbD 1, b.getLsbD 0]

/-- The bits of a word, most significant first. -/
def wordBits {n : Nat} (w : BitVec n) : List Bool := (List.range n).map fun j => w.getLsbD (n - 1 - j)

/-- The word of width `n` whose bits, most significant first, are `bits`. -/
def bitsWord (n : Nat) (bits : List Bool) : BitVec n := bits.foldl (fun w b => (w <<< 1) ||| (BitVec.ofBool b).setWidth n) 0

/-! ### Segments and the font (30_encoding.md R80, R81, 40_segment_font.md) -/

/-- The bit of a SEG7 mask that stands for a segment: A is bit 6, G is bit 0 (30_encoding.md R81). -/
def segmentBit : Segment → Nat
  | .a => 6 | .b => 5 | .c => 4 | .d => 3 | .e => 2 | .f => 1 | .g => 0

/-- Whether a mask has a segment lit. -/
def isLit (m : BitVec 7) (s : Segment) : Bool := m.getLsbD (segmentBit s)

/-- The lit segments of a mask. -/
def litSegments (m : BitVec 7) : List Segment := allSegments.filter (isLit m)

/-- Space FONT: the ten glyphs, 0 first (20_memory.md R50, 40_segment_font.md R122 to R131). -/
def fontRom : List (BitVec 7) :=
  [0b1111110#7, 0b0110000#7, 0b1101101#7, 0b1111001#7, 0b0110011#7,
   0b1011011#7, 0b1011111#7, 0b1110000#7, 0b1111111#7, 0b1111011#7]

/-- MemRead(FONT, digit, 1) for a digit 0..9. -/
def glyph (digit : Nat) : BitVec 7 := fontRom.getD digit 0

/-! ### Locations and the frame (30_encoding.md R82, 20_memory.md R53, R56) -/

/-- The place of a location in transmission order of the 40 frame bits. -/
def wireIndex (l : Loc) : Nat := 8 * l.byteIndex + (7 - l.bitIndex)

/-- `F[k][i]`. DESIGN CHOICE (log entry 36): a location outside the frame reads as 0. A profile that passes LOAD has none. -/
def frameBit (f : Frame) (l : Loc) : Bool :=
  if h : l.byteIndex < 5 then f[l.byteIndex].getLsbD l.bitIndex else false

/-- `F[k][i] <- 1` (00_scope.md R12). DESIGN CHOICE (log entry 36): a location outside the frame, which only a profile that
LOAD rejects has (10_state.md R40 (b)), sets no bit. -/
def setFrameBit (f : Frame) (l : Loc) : Frame :=
  if h : l.byteIndex < 5 then f.set l.byteIndex (f[l.byteIndex] ||| (1#8 <<< l.bitIndex)) else f

/-- The bits of a set of locations ORed into a frame. -/
def setFrameBits (f : Frame) (ls : List Loc) : Frame := ls.foldl setFrameBit f

/-- The 40 frame bits in wire order: byte 0 first, bit 7 of each byte first. -/
def frameWire (f : Frame) : List Bool := f.toList.flatMap byteBits

/-- EXPAND's result for a profile with `frameBits` bits (43_line_transport.md R201). -/
def expandBits (frameBits : Nat) (f : Frame) : List Bool :=
  if frameBits = 41 then Config.framingBit :: frameWire f else frameWire f

/-! ### Status codes (30_encoding.md R103) -/

def statusCode : Status → Byte
  | .ok => 0 | .invalidInput => 1 | .invalidLength => 2 | .invalidCharacter => 3 | .transportFault => 4
  | .invalidCommand => 5 | .configurationError => 6 | .invalidDigit => 7

/-! ### Symbols of SEND_RAW (30_encoding.md R94, R97; log entry 19) -/

/-- The bit a symbol stands for; `none` for a symbol that is not a binary digit. -/
def symbolBit (b : Byte) : Option Bool :=
  if b = 0x30#8 then some false else if b = 0x31#8 then some true else none

/-! ### Trace ROM records (30_encoding.md R92) -/

/-- One recorded transition: the delay before it, and the three levels (30_encoding.md R90). -/
structure ReplayEvent where
  delay  : Duration
  data   : Level
  clock  : Level
  enable : Level
  deriving DecidableEq, Repr

/-- The event of the fields of a record: the delay is a signed count of `tick`. -/
def recordEvent (tick : Tick) (data clock enable : Level) (delay : BitVec 29) : ReplayEvent :=
  { delay := tick.times delay.toInt, data := data, clock := clock, enable := enable }

/-- The TRACE_EVENT a 32-bit word of the ROM is. -/
def recordInstr (w : BitVec 32) : Instr :=
  .traceEvent (w.getLsbD 31) (w.getLsbD 30) (w.getLsbD 29) (w.setWidth 29)

/-- The event a 32-bit word of the ROM is. -/
def wordEvent (tick : Tick) (w : BitVec 32) : ReplayEvent :=
  recordEvent tick (w.getLsbD 31) (w.getLsbD 30) (w.getLsbD 29) (w.setWidth 29)

/-- The 32-bit word of the fields of a record. -/
def recordWord (data clock enable : Level) (delay : BitVec 29) : BitVec 32 :=
  BitVec.ofBool data ++ BitVec.ofBool clock ++ BitVec.ofBool enable ++ delay

end Sys2Proof.Machine
end

