-- ==== Sys2Proof/WellFormed.lean ====
section
/-! DEFINITION. Which terms of `Instr` are operations of the hardware: the operand ranges the formats give. -/

namespace Sys2Proof

/-- A signed 8-bit operand (30_encoding.md R96). -/
def isSignedByte (x : Int) : Bool := decide (-128 ≤ x) && decide (x ≤ 127)

/-- `hh` and `mm` are signed bytes (30_encoding.md R96), `len` is an unsigned byte (R97), a duration given to DELAY is
not negative (00_scope.md R11, 43_line_transport.md R221). Every other operand has its range by its type. -/
def WellFormed : Instr → Bool
  | .sendTime hours minutes => isSignedByte hours && isSignedByte minutes
  | .sendRaw symbols => decide (symbols.length ≤ 255)
  | .delay t => t.nonNegative
  | .reserved00 | .reserved03 | .reserved04 _ | .reserved08 _ | .reserved10 _ | .reserved20 _ | .reserved40 _
  | .reserved80 _ => true
  | .glyph0 | .glyph1 | .glyph2 | .glyph3 | .glyph4 | .glyph5 | .glyph6 | .glyph7 | .glyph8 | .glyph9 => true
  | .traceEvent _ _ _ _ | .frameRef40 _ _ _ _ _ | .wireW40 _ | .wireW41 _ => true
  | .statusOk | .statusInvalidInput | .statusInvalidLength | .statusInvalidCharacter | .statusTransportFault
  | .statusInvalidCommand | .statusConfigurationError | .statusInvalidDigit => true
  | .segfont _ | .locate _ _ | .encode _ _ | .expand | .transmit _ | .shiftout | .replay | .idleAssert
  | .setline _ _ => true

end Sys2Proof
end

