-- ==== Sys2Proof/Decode.lean ====
section
/-! DEFINITION. The decoder of the command stream (30_encoding.md R95 to R99), the decoders of the other formats of
spec/opcode_table.json, and after them the encoder. Every decoder is total and rejects by name. -/

namespace Sys2Proof
open Sys2Proof.Machine

/-- Why a sequence of bytes or bits is not an operation of the format it is read in. -/
inductive DecodeError where
  /-- The operand bytes of the command have not all been presented yet, or there is no byte at all. -/
  | truncated
  /-- Bits are left after the operation, or the number of bits is not that of the format. -/
  | wrongLength
  /-- A 7-bit mask that is none of the ten glyphs. -/
  | notAGlyph
  /-- A constant bit of the REF40 frame, or the framing bit, has the wrong value. -/
  | wrongConstantBit
  /-- A byte above 7, which is no status code (30_encoding.md R103). -/
  | noSuchStatus
  deriving DecidableEq, Repr

/-! ### The command stream -/

/-- The operation of a reserved opcode byte, by the row of the table it falls in (30_encoding.md R99). -/
def reservedOf (op : Byte) : Instr :=
  if op = 0x00#8 then .reserved00
  else if op = 0x03#8 then .reserved03
  else if op < 0x08#8 then .reserved04 (op.setWidth 2)
  else if op < 0x10#8 then .reserved08 (op.setWidth 3)
  else if op < 0x20#8 then .reserved10 (op.setWidth 4)
  else if op < 0x40#8 then .reserved20 (op.setWidth 5)
  else if op < 0x80#8 then .reserved40 (op.setWidth 6)
  else .reserved80 (op.setWidth 7)

/-- SEND_TIME's operands: two signed bytes (30_encoding.md R96). -/
def decodeTime : List Byte → Except DecodeError (Instr × List Byte)
  | hh :: mm :: rest => .ok (.sendTime hh.toInt mm.toInt, rest)
  | _ => .error .truncated

/-- SEND_RAW's operands: a length byte and that many symbols (30_encoding.md R97). -/
def decodeRaw : List Byte → Except DecodeError (Instr × List Byte)
  | len :: rest =>
    if len.toNat ≤ rest.length then .ok (.sendRaw (rest.take len.toNat), rest.drop len.toNat) else .error .truncated
  | [] => .error .truncated

/-- The first command of a byte stream and the bytes after it (30_encoding.md R95, R98). -/
def decodeCommand : List Byte → Except DecodeError (Instr × List Byte)
  | [] => .error .truncated
  | op :: rest =>
    if op = 0x01#8 then decodeTime rest
    else if op = 0x02#8 then decodeRaw rest
    else .ok (reservedOf op, rest)

/-- The length in bytes of the command that begins a stream, from byte 0, or bytes 0 and 1 (30_encoding.md R98). -/
def commandLength : List Byte → Nat
  | [] => 0
  | op :: rest => if op = 0x01#8 then 3 else if op = 0x02#8 then 2 + (rest.headD 0).toNat else 1

/-! ### The formats -/

/-- The formats of spec/opcode_table.json that have an encoding. `cmd` stands for CMD_TIME, CMD_RAW and CMD_RSVD. -/
inductive Format where
  | cmd | seg7 | trec32 | frame40 | w40 | w41 | stat8
  deriving DecidableEq, Repr

/-- An encoded operation: its format and its bits from left to right as the table's patterns write them (the bytes of
a command in stream order, each most significant bit first). -/
structure Coded where
  format : Format
  bits   : List Bool
  deriving DecidableEq, Repr

/-- Whole bytes from their bits. -/
def bitsBytes : List Bool → Option (List Byte)
  | [] => some []
  | b7 :: b6 :: b5 :: b4 :: b3 :: b2 :: b1 :: b0 :: rest =>
    (bitsBytes rest).map (bitsWord 8 [b7, b6, b5, b4, b3, b2, b1, b0] :: ·)
  | _ => none

def decodeWholeCommand (bits : List Bool) : Except DecodeError Instr :=
  match bitsBytes bits with
  | none => .error .wrongLength
  | some bytes =>
    match decodeCommand bytes with
    | .ok (i, []) => .ok i
    | .ok (_, _ :: _) => .error .wrongLength
    | .error e => .error e

/-- SEG7: the glyph whose mask the bits are (40_segment_font.md R122 to R131). -/
def decodeSeg7 (bits : List Bool) : Except DecodeError Instr :=
  if bits.length ≠ 7 then .error .wrongLength
  else if bits = wordBits (glyph 0) then .ok .glyph0
  else if bits = wordBits (glyph 1) then .ok .glyph1
  else if bits = wordBits (glyph 2) then .ok .glyph2
  else if bits = wordBits (glyph 3) then .ok .glyph3
  else if bits = wordBits (glyph 4) then .ok .glyph4
  else if bits = wordBits (glyph 5) then .ok .glyph5
  else if bits = wordBits (glyph 6) then .ok .glyph6
  else if bits = wordBits (glyph 7) then .ok .glyph7
  else if bits = wordBits (glyph 8) then .ok .glyph8
  else if bits = wordBits (glyph 9) then .ok .glyph9
  else .error .notAGlyph

/-- TREC32: every 32-bit word is a well-formed record (30_encoding.md R92). -/
def decodeRecord (bits : List Bool) : Except DecodeError Instr :=
  if bits.length ≠ 32 then .error .wrongLength else .ok (recordInstr (bitsWord 32 bits))

/-- The constant bits of the REF40 field table, by their place on the wire (30_encoding.md R84). DESIGN CHOICE (log entry
34): bits 34 to 38, which are bits 5 to 1 of byte 4, are constant 0, as the pattern of the row FRAME_REF40 in
spec/opcode_table.json has them. R84 leaves open whether `HT1` is confined to (4,6) and (4,0), so that for hour-tens 1 one of
them may be 1; such a frame is read as `wrongConstantBit`. ENCODE itself sets whatever `HT1` has. -/
def frameRef40Constants : List (Nat × Bool) :=
  [(0, true), (1, false), (2, true), (3, false), (4, true), (5, true), (6, false), (7, false),
   (8, false), (13, true), (21, true), (29, true),
   (34, false), (35, false), (36, false), (37, false), (38, false)]

/-- A SEG7 mask from the places on the wire of its segments A to G. -/
def pickMask (bits : List Bool) (places : List Nat) : BitVec 7 := bitsWord 7 (places.map fun j => bits.getD j false)

/-- FRAME40 of REF40 (30_encoding.md R84). -/
def decodeFrameRef40 (bits : List Bool) : Except DecodeError Instr :=
  if bits.length ≠ 40 then .error .wrongLength
  else if frameRef40Constants.all fun c => bits.getD c.1 false == c.2 then
    .ok (.frameRef40 (pickMask bits [9, 10, 11, 12, 32, 14, 15]) (pickMask bits [17, 18, 19, 20, 16, 22, 23])
      (pickMask bits [25, 26, 27, 28, 24, 30, 31]) (bits.getD 33 false) (bits.getD 39 false))
  else .error .wrongConstantBit

/-- W40 (30_encoding.md R86). -/
def decodeW40 (bits : List Bool) : Except DecodeError Instr :=
  if bits.length ≠ 40 then .error .wrongLength else .ok (.wireW40 (bitsWord 40 bits))

/-- W41 (30_encoding.md R87): the framing bit is 1. -/
def decodeW41 : List Bool → Except DecodeError Instr
  | framing :: bits =>
    if bits.length ≠ 40 then .error .wrongLength
    else if framing then .ok (.wireW41 (bitsWord 40 bits)) else .error .wrongConstantBit
  | [] => .error .wrongLength

/-- STAT8 (30_encoding.md R103). -/
def decodeStatus (bits : List Bool) : Except DecodeError Instr :=
  if bits.length ≠ 8 then .error .wrongLength
  else if bits = byteBits 0 then .ok .statusOk
  else if bits = byteBits 1 then .ok .statusInvalidInput
  else if bits = byteBits 2 then .ok .statusInvalidLength
  else if bits = byteBits 3 then .ok .statusInvalidCharacter
  else if bits = byteBits 4 then .ok .statusTransportFault
  else if bits = byteBits 5 then .ok .statusInvalidCommand
  else if bits = byteBits 6 then .ok .statusConfigurationError
  else if bits = byteBits 7 then .ok .statusInvalidDigit
  else .error .noSuchStatus

/-- The operation a sequence of bits is, read in its format. -/
def decode (c : Coded) : Except DecodeError Instr :=
  match c.format with
  | .cmd => decodeWholeCommand c.bits
  | .seg7 => decodeSeg7 c.bits
  | .trec32 => decodeRecord c.bits
  | .frame40 => decodeFrameRef40 c.bits
  | .w40 => decodeW40 c.bits
  | .w41 => decodeW41 c.bits
  | .stat8 => decodeStatus c.bits

/-! ### The encoder -/

/-- The bytes of a host command (30_encoding.md R96, R97, R99); `none` for every other operation. -/
def encodeCommand : Instr → Option (List Byte)
  | .sendTime hours minutes => some [0x01#8, BitVec.ofInt 8 hours, BitVec.ofInt 8 minutes]
  | .sendRaw symbols => some (0x02#8 :: BitVec.ofNat 8 symbols.length :: symbols)
  | .reserved00 => some [0x00#8]
  | .reserved03 => some [0x03#8]
  | .reserved04 low => some [0b000001#6 ++ low]
  | .reserved08 low => some [0b00001#5 ++ low]
  | .reserved10 low => some [0b0001#4 ++ low]
  | .reserved20 low => some [0b001#3 ++ low]
  | .reserved40 low => some [0b01#2 ++ low]
  | .reserved80 low => some [0b1#1 ++ low]
  | .glyph0 | .glyph1 | .glyph2 | .glyph3 | .glyph4 | .glyph5 | .glyph6 | .glyph7 | .glyph8 | .glyph9 => none
  | .traceEvent _ _ _ _ | .frameRef40 _ _ _ _ _ | .wireW40 _ | .wireW41 _ => none
  | .statusOk | .statusInvalidInput | .statusInvalidLength | .statusInvalidCharacter | .statusTransportFault
  | .statusInvalidCommand | .statusConfigurationError | .statusInvalidDigit => none
  | .segfont _ | .locate _ _ | .encode _ _ | .expand | .transmit _ | .shiftout | .replay | .idleAssert
  | .setline _ _ | .delay _ => none

/-- The bits of a REF40 frame, row by row as 30_encoding.md R84 prints them. -/
def frameRef40Bits (mo mt ho : BitVec 7) (h6 h0 : Bool) : List Bool :=
  [true, false, true, false, true, true, false, false,
   false, isLit mo .a, isLit mo .b, isLit mo .c, isLit mo .d, true, isLit mo .f, isLit mo .g,
   isLit mt .e, isLit mt .a, isLit mt .b, isLit mt .c, isLit mt .d, true, isLit mt .f, isLit mt .g,
   isLit ho .e, isLit ho .a, isLit ho .b, isLit ho .c, isLit ho .d, true, isLit ho .f, isLit ho .g,
   isLit mo .e, h6, false, false, false, false, false, h0]

/-- The encoding of an operation that is no host command: the bits as the table's pattern writes them; `none` for the
commands and for the internal operations, which have no encoding (spec/opcode_table.json). -/
def encodeData : Instr → Option Coded
  | .sendTime _ _ | .sendRaw _ | .reserved00 | .reserved03 | .reserved04 _ | .reserved08 _ | .reserved10 _
  | .reserved20 _ | .reserved40 _ | .reserved80 _ => none
  | .glyph0 => some ⟨.seg7, wordBits (glyph 0)⟩
  | .glyph1 => some ⟨.seg7, wordBits (glyph 1)⟩
  | .glyph2 => some ⟨.seg7, wordBits (glyph 2)⟩
  | .glyph3 => some ⟨.seg7, wordBits (glyph 3)⟩
  | .glyph4 => some ⟨.seg7, wordBits (glyph 4)⟩
  | .glyph5 => some ⟨.seg7, wordBits (glyph 5)⟩
  | .glyph6 => some ⟨.seg7, wordBits (glyph 6)⟩
  | .glyph7 => some ⟨.seg7, wordBits (glyph 7)⟩
  | .glyph8 => some ⟨.seg7, wordBits (glyph 8)⟩
  | .glyph9 => some ⟨.seg7, wordBits (glyph 9)⟩
  | .traceEvent data clock enable delay => some ⟨.trec32, wordBits (recordWord data clock enable delay)⟩
  | .frameRef40 mo mt ho h6 h0 => some ⟨.frame40, frameRef40Bits mo mt ho h6 h0⟩
  | .wireW40 bits => some ⟨.w40, wordBits bits⟩
  | .wireW41 bits => some ⟨.w41, true :: wordBits bits⟩
  | .statusOk => some ⟨.stat8, byteBits (statusCode .ok)⟩
  | .statusInvalidInput => some ⟨.stat8, byteBits (statusCode .invalidInput)⟩
  | .statusInvalidLength => some ⟨.stat8, byteBits (statusCode .invalidLength)⟩
  | .statusInvalidCharacter => some ⟨.stat8, byteBits (statusCode .invalidCharacter)⟩
  | .statusTransportFault => some ⟨.stat8, byteBits (statusCode .transportFault)⟩
  | .statusInvalidCommand => some ⟨.stat8, byteBits (statusCode .invalidCommand)⟩
  | .statusConfigurationError => some ⟨.stat8, byteBits (statusCode .configurationError)⟩
  | .statusInvalidDigit => some ⟨.stat8, byteBits (statusCode .invalidDigit)⟩
  | .segfont _ | .locate _ _ | .encode _ _ | .expand | .transmit _ | .shiftout | .replay | .idleAssert
  | .setline _ _ | .delay _ => none

/-- The encoding of an operation, if it has one. -/
def encode (i : Instr) : Option Coded :=
  match encodeCommand i with
  | some bytes => some ⟨.cmd, bytes.flatMap byteBits⟩
  | none => encodeData i

/-! ### Words of the opcode table -/

/-- The number of bytes of the longest command: opcode, length, 255 symbols (30_encoding.md R97). -/
def longestCommand : Nat := 257

/-- The bytes of a word of the table, the first byte from the word's low bits; every bit from `nbits` up is 0. -/
def tableBytes (nbits w : Nat) : List Byte :=
  (List.range longestCommand).map fun k => BitVec.ofNat 8 ((w % 2 ^ nbits) / 2 ^ (8 * k))

/-- The exact bytes of the command a word of the table begins. -/
def tableCommand (nbits w : Nat) : List Byte := (tableBytes nbits w).take (commandLength (tableBytes nbits w))

/-- What the block's decoders read from a word of the table: the trace ROM's decoder from a word of 32 bits (only TREC32
has that width), the command decoder from every other. The formats the block only produces (SEG7, FRAME40, W40, W41, STAT8)
have no decoder in it, and their words are read as the command their first byte begins (log entry 22). -/
def decodeTableWord (nbits w : Nat) : Option Instr :=
  if nbits = 32 then some (recordInstr (BitVec.ofNat 32 w))
  else
    match decodeCommand (tableCommand nbits w) with
    | .ok (i, _) => some i
    | .error _ => none

end Sys2Proof
end

