-- ==== Sys2Proof/Machine/Profiles.lean ====
section
/-! DEFINITION. The two profiles, the lookups of space MAP and space TRACE, and the configuration check of LOAD. -/

namespace Sys2Proof.Machine

/-! ### Space MAP (20_memory.md R51) -/

def segmentEntry (m : SegmentMap) : Segment → Option Loc
  | .a => m.a | .b => m.b | .c => m.c | .d => m.d | .e => m.e | .f => m.f | .g => m.g

def positionMap (m : DigitMaps) : DigitPosition → SegmentMap
  | .hourOnes => m.hourOnes | .minuteTens => m.minuteTens | .minuteOnes => m.minuteOnes

/-- LOCATE: MemRead(MAP, digitMaps[position][segment], 1) (41_segment_map.md R140). `none` only for a profile that LOAD
rejects (R141). -/
def locate (p : Profile) (position : DigitPosition) (segment : Segment) : Option Loc :=
  segmentEntry (positionMap p.digitMaps position) segment

/-- The 21 entries of `digitMaps`. -/
def mapEntries (p : Profile) : List (Option Loc) :=
  allPositions.flatMap fun position => allSegments.map (locate p position)

/-- The segment locations that are there. -/
def segmentLocs (p : Profile) : List Loc := (mapEntries p).filterMap id

/-- The locations of the three hour-tens sets. -/
def hourTensLocs (p : Profile) : List Loc := p.hourTens.toList.flatten

/-! ### The profiles -/

/-- The locations in byte 4 whose bits are set in a mask (10_state.md R31). -/
def byte4Set (mask : Byte) : List Loc := ([7, 6, 5, 4, 3, 2, 1, 0].filter mask.getLsbD).map fun i => ⟨4, i⟩

/-- The mask of admissible set number `code` of `HT1` (41_segment_map.md R152): 1 to 127 without 0x41. -/
def ht1Mask (code : Fin 126) : Byte := BitVec.ofNat 8 (if code.val < 64 then code.val + 1 else code.val + 2)

/-- The five times of a profile from times that are not negative. -/
def Times.timing (t : Times Tick) : Timing :=
  ⟨t.tAssert.times 1, t.tLow.times 1, t.tHigh.times 1, t.tDataIdle.times 1, t.tFinal.times 1⟩

/-- REF40 (41_segment_map.md R150 to R153, R159) with its OPEN fields as arguments. The entries R153 marks "decided"
are the spec's decision D2 (log entry 18). -/
def ref40 (ht1 : List Loc) (timing : Timing) : Profile where
  baseFrame := #v[0xAC, 0x04, 0x04, 0x04, 0x00]
  hourTens := #v[[], ht1, [⟨4, 6⟩, ⟨4, 0⟩]]
  digitMaps :=
    { hourOnes := ⟨some ⟨3, 6⟩, some ⟨3, 5⟩, some ⟨3, 4⟩, some ⟨3, 3⟩, some ⟨3, 7⟩, some ⟨3, 1⟩, some ⟨3, 0⟩⟩
      minuteTens := ⟨some ⟨2, 6⟩, some ⟨2, 5⟩, some ⟨2, 4⟩, some ⟨2, 3⟩, some ⟨2, 7⟩, some ⟨2, 1⟩, some ⟨2, 0⟩⟩
      minuteOnes := ⟨some ⟨1, 6⟩, some ⟨1, 5⟩, some ⟨1, 4⟩, some ⟨1, 3⟩, some ⟨4, 7⟩, some ⟨1, 1⟩, some ⟨1, 0⟩⟩ }
  frameBits := 40
  bitOrder := .msbFirst
  timing := timing

/-- REV41 (41_segment_map.md R160): 41 bits, everything else OPEN; hour-tens set 0 is empty in every profile (R31). -/
def rev41 : Profile where
  baseFrame := Config.rev41BaseFrame
  hourTens := #v[[], byte4Set Config.rev41HourTens1, byte4Set Config.rev41HourTens2]
  digitMaps := Config.rev41Maps
  frameBits := 41
  bitOrder := .msbFirst
  timing := Times.timing Config.rev41Times

/-- The configuration `State.reset` stands for: a block set up for REF40, every OPEN parameter left free (log entries 4
and 5). -/
def installedSetup : Setup where
  profile := ref40 (byte4Set (ht1Mask Config.ht1)) (Times.timing Config.ref40Times)
  asset := Config.traceAsset
  traceTick := Config.traceTick
  ioCanFail := Config.ioCanFail

/-! ### Well-formedness of a profile (10_state.md R40) -/

/-- The clauses of 10_state.md R40, the byte of the hour-tens locations of R31 (log entry 17), and the three ways the trace
asset fails 44_startup_replay.md R241. -/
inductive ConfigCheck where
  | missingMapEntry | locationOutOfRange | locationsNotDistinct | locationsOverlap | hourTensSets | frameBits | timing
  | hourTensByte
  | traceMissing | traceUnreadable | traceMalformed
  deriving DecidableEq, Repr

/-- Clause (b) for one location. -/
def inFrame (l : Loc) : Bool := decide (l.byteIndex < 5) && decide (l.bitIndex < 8)

/-- Two lists are the same set of locations. -/
def sameSet (xs ys : List Loc) : Bool := xs.all (fun x => ys.contains x) && ys.all (fun y => xs.contains y)

/-- Clause (a): all 21 entries exist. -/
def allEntriesPresent (p : Profile) : Bool := (mapEntries p).all Option.isSome

/-- Clause (b): every location is inside the frame. -/
def locationsInRange (p : Profile) : Bool := (segmentLocs p ++ hourTensLocs p).all inFrame

/-- Clause (c): the segment locations are pairwise distinct. -/
def locationsDistinct (p : Profile) : Bool := decide (segmentLocs p).Nodup

/-- Clause (d): base 1-bits, segment locations and hour-tens locations do not meet. -/
def locationsDisjoint (p : Profile) : Bool :=
  (segmentLocs p).all (fun l => !frameBit p.baseFrame l && !(hourTensLocs p).contains l)
    && (hourTensLocs p).all (fun l => !frameBit p.baseFrame l)

/-- Clause (e): hour-tens set 0 is empty and the three sets are pairwise distinct. -/
def hourTensDistinct (p : Profile) : Bool :=
  p.hourTens[0].isEmpty && !sameSet p.hourTens[0] p.hourTens[1] && !sameSet p.hourTens[0] p.hourTens[2]
    && !sameSet p.hourTens[1] p.hourTens[2]

/-- Every location of an hour-tens set is in byte 4 (10_state.md R31; log entry 17). -/
def hourTensInByte4 (p : Profile) : Bool := (hourTensLocs p).all fun l => decide (l.byteIndex = 4)

/-- Clause (f). -/
def frameBitsLegal (p : Profile) : Bool := decide (p.frameBits = 40) || decide (p.frameBits = 41)

/-- Clause (g). -/
def timingNonNegative (p : Profile) : Bool :=
  p.timing.tAssert.nonNegative && p.timing.tLow.nonNegative && p.timing.tHigh.nonNegative
    && p.timing.tDataIdle.nonNegative && p.timing.tFinal.nonNegative

/-- The clauses of 10_state.md R40, and of R31, that a profile fails. -/
def profileFailures (p : Profile) : List ConfigCheck :=
  [(allEntriesPresent p, ConfigCheck.missingMapEntry), (locationsInRange p, .locationOutOfRange),
   (locationsDistinct p, .locationsNotDistinct), (locationsDisjoint p, .locationsOverlap),
   (hourTensDistinct p, .hourTensSets), (frameBitsLegal p, .frameBits), (timingNonNegative p, .timing),
   (hourTensInByte4 p, .hourTensByte)].filterMap
    fun c => if c.1 then none else some c.2

/-- A well-formed profile. -/
def profileOk (p : Profile) : Bool := (profileFailures p).isEmpty

/-- What the source fixes of `HT1` (41_segment_map.md R152): a set of byte-4 locations, neither empty nor the set of
hour-tens 2, that meets no base 1-bit and no segment location of REF40. -/
def ht1Admissible (ht1 : List Loc) : Bool :=
  ht1.all (fun l => decide (l.byteIndex = 4) && decide (l.bitIndex < 7))
    && !ht1.isEmpty && !sameSet ht1 [⟨4, 6⟩, ⟨4, 0⟩]

/-! ### Space TRACE (20_memory.md R52) and the check of the asset (44_startup_replay.md R241) -/

/-- A level field is 0 or 1 (30_encoding.md R91). -/
def rowLevel : Option Nat → Option Level
  | some 0 => some false
  | some 1 => some true
  | _ => none

/-- The event of a row, if the row has its four fields, its levels are 0 or 1 and its delay is a number. -/
def rowEvent (r : TraceRow) : Option ReplayEvent :=
  match r.delay, rowLevel r.data, rowLevel r.clock, rowLevel r.enable with
  | some t, some d, some c, some e => some ⟨t, d, c, e⟩
  | _, _, _, _ => none

/-- The events of an asset that is present and well-formed. -/
def assetEvents (tick : Tick) : TraceAsset → Option (List ReplayEvent)
  | .file rows => rows.mapM rowEvent
  | .rom records => some (records.map (wordEvent tick))
  | .missing | .unreadable | .romOfUnknownLength => none

/-- The checks an asset fails. -/
def assetFailures (tick : Tick) (a : TraceAsset) : List ConfigCheck :=
  match a with
  | .missing => [.traceMissing]
  | .unreadable => [.traceUnreadable]
  | a => match assetEvents tick a with
    | some _ => []
    | none => [.traceMalformed]

/-- The startup trace of a configuration: its N events in asset order (no event for an asset LOAD rejects). -/
def traceEvents (c : Setup) : List ReplayEvent := (assetEvents c.traceTick c.asset).getD []

/-- Every check of LOAD that a configuration fails (60_exceptions.md R306). -/
def setupFailures (c : Setup) : List ConfigCheck :=
  profileFailures c.profile ++ assetFailures c.traceTick c.asset

/-- LOAD passes. -/
def setupOk (c : Setup) : Bool := (setupFailures c).isEmpty

end Sys2Proof.Machine
end

