-- ==== Sys2Proof/Machine/State.lean ====
section
/-! DEFINITION. The state of the block as plain data, its value right after reset, and the reasons a step may stop. -/

namespace Sys2Proof.Machine

/-- The transfer states (10_state.md R24); `i` of `shifting` is BITIDX (R26). -/
inductive Xfer where
  | idle
  | asserting
  | shifting (i : Nat)
  | deasserting
  deriving DecidableEq, Repr

/-- The sequencer state (10_state.md R24). -/
inductive Seq where
  | load
  | replay (k : Nat)
  | ready (x : Xfer)
  | configFault
  deriving DecidableEq, Repr

/-- The levels the block drives (10_state.md R21). -/
structure Lines where
  data : Level
  clk  : Level
  en   : Level
  deriving DecidableEq, Repr

/-- An event of the output trace: `w id v` is the spec's W(id, v), `d t` is D(t) (00_scope.md R14). -/
inductive Event where
  | w (id : Line) (v : Level)
  | d (t : Duration)
  deriving DecidableEq, Repr

/-- The failure conditions with what each records (60_exceptions.md R301 to R308). -/
inductive Condition where
  | invalidDigit (digit : Int)
  | invalidInput (hours minutes : Int)
  | invalidLength (length : Nat)
  | invalidCharacter (position : Nat) (symbol : Byte)
  | transportFault (id : Line) (level : Level)
  | configurationError (failed : List ConfigCheck)
  | invalidCommand (opcode : Byte)
  deriving DecidableEq, Repr

/-- What the last operation gave to its caller. The model's own field (log entry 12). -/
inductive Result where
  | nothing
  | done
  | segments (m : BitVec 7)
  | location (l : Option Loc)
  | frame (f : Frame)
  | bits (sequence : List Bool)
  | raised (c : Condition)
  deriving DecidableEq, Repr

/-- One choice of the environment, for one coming micro-operation or wait (log entry 6). -/
inductive Draw where
  | pass
  | fail
  | reset
  deriving DecidableEq, Repr

/-- What an earlier run had put out when a reset ended it (log entry 7). -/
structure RunRecord where
  trace     : List Event
  delivered : List Status
  deriving DecidableEq, Repr

/-- The whole state of the block, with its configuration and its inputs. INVENTORY.md names the rule of each field. -/
structure State where
  /-- Fixed before reset release; no operation writes it (10_state.md R20). -/
  cfg       : Setup
  /-- The analogue of a program counter (10_state.md R24). -/
  seq       : Seq
  /-- `L` (10_state.md R21). -/
  lines     : Lines
  /-- FRAME (10_state.md R23). -/
  frame     : Frame
  /-- SR, the bit sent first at its head (10_state.md R26). -/
  sr        : List Bool
  /-- The digit latches (10_state.md R27). -/
  ht        : Fin 3
  ho        : Fin 10
  mt        : Fin 6
  mo        : Fin 10
  /-- The status codes delivered since reset, oldest first (10_state.md R28). -/
  delivered : List Status
  /-- The output trace since reset, oldest first (00_scope.md R14). -/
  trace     : List Event
  /-- The command bytes the host presents and the block has not taken (30_encoding.md R95). -/
  port      : List Byte
  /-- The environment's coming choices (43_line_transport.md R222, 70_reset_and_hazards.md R344). -/
  env       : List Draw
  /-- The model's own: what the last operation gave to its caller (log entry 12). -/
  result    : Result
  /-- The model's own: a TransportFault has occurred since the last completed transfer or startup (60_exceptions.md R305). -/
  faulted   : Bool
  /-- The model's own: the runs ended by a reset, oldest first (log entry 7). -/
  past      : List RunRecord
  deriving DecidableEq, Repr

/-- No behaviour the spec describes ends the machine: every failure condition has a stated effect and is a next state
(60_exceptions.md R312, R313). The type has no constructor, so no step can answer a fault. -/
inductive Fault where
  deriving DecidableEq, Repr

/-- Reasons for which the model has no meaning for an operation. -/
inductive Refusal where
  /-- Raised by an arm of `exec` whose operation has no meaning yet (no arm is left so). Safe: nothing can be proved of it. -/
  | notModelled (mnemonic : String)
  deriving DecidableEq, Repr

/-- The number of the current run: how many resets have ended a run before it. -/
def State.run (s : State) : Nat := s.past.length

/-- The levels of the lines at the reset that starts a run: unspecified (70_reset_and_hazards.md R341; log entry 2). -/
def unspecifiedLines (run : Nat) : Lines :=
  { data := Config.lineAtReset run .data, clk := Config.lineAtReset run .clk, en := Config.lineAtReset run .en }

/-- The bits of SR at the reset that starts a run: unspecified (10_state.md R45; log entry 3). -/
def unspecifiedSr (run frameBits : Nat) : List Bool := (List.range frameBits).map (Config.srBitAtReset run)

/-- The state at reset release of a block with configuration `cfg`: `seq` = LOAD, nothing put out, no status, every latch
and line unspecified (10_state.md R45, 70_reset_and_hazards.md R340, R341). `past`, `port` and `env` lie outside the
block and are what they were. -/
def State.atReset (cfg : Setup) (past : List RunRecord) (port : List Byte) (env : List Draw) : State where
  cfg := cfg
  seq := .load
  lines := unspecifiedLines past.length
  frame := Config.frameAtReset past.length
  sr := unspecifiedSr past.length cfg.profile.frameBits
  ht := Config.htAtReset past.length
  ho := Config.hoAtReset past.length
  mt := Config.mtAtReset past.length
  mo := Config.moAtReset past.length
  delivered := []
  trace := []
  port := port
  env := env
  result := .nothing
  faulted := false
  past := past

/-- The machine right after its first reset, with nothing presented by the host (log entries 4, 6 and 23). -/
def State.reset : State := State.atReset installedSetup [] [] []

end Sys2Proof.Machine
end

