-- ==== Sys2Proof/Machine/Flags.lean ====
section
/-! DEFINITION. The block has no condition codes and no flags (10_state.md R28). What stands in their place: `ready`, which
is a function of `seq`, the last status code, and the status code of each failure condition. -/

namespace Sys2Proof.Machine

/-- `ready`: a command is accepted (10_state.md R28, 45_driver_commands.md R262). -/
def State.ready (s : State) : Bool := s.seq == .ready .idle

/-- The last status code delivered; `none` before the startup sequence has ended (10_state.md R28, R45). -/
def State.status (s : State) : Option Status := s.delivered.getLast?

/-- The phases in which the sequencer moves lines or waits: not LOAD and not CONFIG_FAULT (10_state.md R24,
60_exceptions.md R306). -/
def State.linesMayMove (s : State) : Bool :=
  match s.seq with
  | .load | .configFault => false
  | .replay _ | .ready _ => true

/-- The status code of a condition (60_exceptions.md R301 to R308). -/
def conditionStatus : Condition → Status
  | .invalidDigit _ => .invalidDigit
  | .invalidInput _ _ => .invalidInput
  | .invalidLength _ => .invalidLength
  | .invalidCharacter _ _ => .invalidCharacter
  | .transportFault _ _ => .transportFault
  | .configurationError _ => .configurationError
  | .invalidCommand _ => .invalidCommand

end Sys2Proof.Machine
end

