-- ==== Sys2Proof/Machine/Operands.lean ====
section
/-! DEFINITION. The operand forms: the decimal digits of a time, the digit of a font lookup, the symbols of a raw frame,
the bits of SR, the event of the trace that REPLAY has come to. -/

namespace Sys2Proof.Machine

/-- The range check of ENCODE, on integers (42_frame_encoder.md R171). -/
def timeInRange (hours minutes : Int) : Bool :=
  decide (0 ≤ hours) && decide (hours ≤ 23) && decide (0 ≤ minutes) && decide (minutes ≤ 59)

/-- HT of an hour in range (42_frame_encoder.md R173). -/
def hourTensOf (hours : Int) : Fin 3 := Fin.ofNat 3 (hours.toNat / 10)

/-- HO of an hour in range. -/
def hourOnesOf (hours : Int) : Fin 10 := Fin.ofNat 10 (hours.toNat % 10)

/-- MT of a minute in range. -/
def minuteTensOf (minutes : Int) : Fin 6 := Fin.ofNat 6 (minutes.toNat / 10)

/-- MO of a minute in range. -/
def minuteOnesOf (minutes : Int) : Fin 10 := Fin.ofNat 10 (minutes.toNat % 10)

/-- SEGFONT: the glyph of a digit, or InvalidDigit (40_segment_font.md R120, R121). -/
def segfont (digit : Int) : Except Condition (BitVec 7) :=
  if digit < 0 ∨ 9 < digit then .error (.invalidDigit digit) else .ok (glyph digit.toNat)

/-- The segments SEGFONT lights for a decimal digit. -/
def digitSegments (digit : Nat) : List Segment :=
  match segfont digit with
  | .ok m => litSegments m
  | .error _ => []

/-- The position and value of the first symbol that is no binary digit, counting from `n` (45_driver_commands.md R265). -/
def firstBadSymbol (n : Nat) : List Byte → Option (Nat × Byte)
  | [] => none
  | b :: rest => if (symbolBit b).isSome then firstBadSymbol (n + 1) rest else some (n, b)

/-- The bits of a raw frame whose symbols are all binary digits (45_driver_commands.md R266). -/
def symbolBits (symbols : List Byte) : List Bool := symbols.map fun b => symbolBit b == some true

/-- `SR[i]`; a bit no operation of this run has written is unspecified (10_state.md R26, R45). SR has exactly `frameBits`
bits (R26, the invariant SequencerSound), and the spec has no other SR. DESIGN CHOICE (log entry 3): in a state whose list
is shorter, which no run reaches, a bit behind its end is the free value of that bit too, whatever was there before. -/
def State.srBit (s : State) (i : Nat) : Bool := s.sr.getD i (Config.srBitAtReset s.run i)

/-- `SR[0 .. frameBits-1]`. -/
def State.shiftBits (s : State) : List Bool := (List.range s.cfg.profile.frameBits).map s.srBit

/-- MemRead(TRACE, k, 1) (20_memory.md R52); `none` from N on. -/
def State.traceEvent (s : State) (k : Nat) : Option ReplayEvent := (traceEvents s.cfg)[k]?

/-- N, the number of events of the trace. -/
def State.traceLength (s : State) : Nat := (traceEvents s.cfg).length

end Sys2Proof.Machine
end

