-- ==== Sys2Proof/Machine/Ops.lean ====
section
/-! DEFINITION. The shared operations: the writes to state, raising a condition, reset, the micro-operations with what
the environment may do to them, and the micro-operation sequences of a transfer and of the startup replay. -/

namespace Sys2Proof.Machine

/-- The outcome of a whole operation. -/
abbrev Answer := Host.Outcome State Fault Refusal

/-! ### Writes to state -/

def Lines.get (l : Lines) : Line → Level
  | .data => l.data | .clk => l.clk | .en => l.en

def Lines.set (l : Lines) (id : Line) (v : Level) : Lines :=
  match id with
  | .data => { l with data := v }
  | .clk => { l with clk := v }
  | .en => { l with en := v }

/-- The effect of a SETLINE that does not fail (43_line_transport.md R220). -/
def State.write (s : State) (id : Line) (v : Level) : State :=
  { s with lines := s.lines.set id v, trace := s.trace ++ [.w id v] }

/-- The effect of a DELAY (43_line_transport.md R221). -/
def State.wait (s : State) (t : Duration) : State := { s with trace := s.trace ++ [.d t] }

/-- `seq <- q` (00_scope.md R12). -/
def State.goto (s : State) (q : Seq) : State := { s with seq := q }

/-- `status <- c` (00_scope.md R12). -/
def State.deliver (s : State) (c : Status) : State := { s with delivered := s.delivered ++ [c] }

/-- Give a result to the caller (log entry 12). -/
def State.returns (s : State) (r : Result) : State := { s with result := r }

/-- `seq <- READY(Idle); status <- OK`: the end of a transfer or of startup (43_line_transport.md R211,
44_startup_replay.md R245). -/
def State.complete (s : State) : State :=
  { s with seq := .ready .idle, delivered := s.delivered ++ [.ok], faulted := false }

/-- A wait for a command, or in CONFIG_FAULT: nothing changes but that one of the environment's choices is used up
(log entry 6). -/
def State.idleWait (s : State) : State := { s with env := s.env.tail }

/-! ### Conditions: the block's analogue of an exception (60_exceptions.md)

No program counter, status or cause is saved and there is no handler (R312), so there is no operation that returns from one
either (R313): after a condition the block waits for the next command, or stands in CONFIG_FAULT. -/

/-- Where the sequencer stands after a failed line write: ready again after a transfer (60_exceptions.md R305), CONFIG_FAULT
after startup (R307). -/
def seqAfterFault : Seq → Seq
  | .ready _ => .ready .idle
  | .load | .replay _ | .configFault => .configFault

/-- `raise c`: what each condition leaves behind (60_exceptions.md R301 to R308). The caller gets the condition with its
recorded values; a status code is delivered, but for InvalidDigit, which changes no state (R301). -/
def State.raise (s : State) (c : Condition) : State :=
  match c with
  | .invalidDigit _ => s.returns (.raised c)
  | .invalidInput _ _ | .invalidLength _ | .invalidCharacter _ _ | .invalidCommand _ =>
    (s.deliver (conditionStatus c)).returns (.raised c)
  | .transportFault _ _ =>
    { (s.deliver (conditionStatus c)).returns (.raised c) with seq := seqAfterFault s.seq, faulted := true }
  | .configurationError _ => { (s.deliver (conditionStatus c)).returns (.raised c) with seq := .configFault }

/-! ### Reset (70_reset_and_hazards.md R340, R341, R344) -/

/-- A further reset: the run ends with what it had put out, and the block is as at reset release. -/
def State.applyReset (s : State) : State :=
  State.atReset s.cfg (s.past ++ [{ trace := s.trace, delivered := s.delivered }]) s.port s.env

/-! ### Micro-operations -/

/-- What the pseudocode of the spec is made of: SETLINE, DELAY, `seq <- q`, and the end of a transfer or of startup. -/
inductive MicroOp where
  | setline (id : Line) (v : Level)
  | delay (t : Duration)
  | goto (q : Seq)
  | complete
  deriving DecidableEq, Repr

/-- Why a sequence of micro-operations did not run to its end. -/
inductive Stop where
  /-- The write of `v` to line `id` failed (43_line_transport.md R222). -/
  | writeFailed (id : Line) (v : Level)
  /-- A reset came (70_reset_and_hazards.md R344). -/
  | reset
  deriving DecidableEq, Repr

/-- The outcome of micro-operations: gone through, or stopped in a state. -/
inductive Micro where
  | go (s : State)
  | stop (s : State) (why : Stop)
  deriving DecidableEq, Repr

/-- The effect of a micro-operation that nothing disturbs. -/
def MicroOp.perform (op : MicroOp) (s : State) : State :=
  match op with
  | .setline id v => s.write id v
  | .delay t => s.wait t
  | .goto q => s.goto q
  | .complete => s.complete

/-- SETLINE with the environment's choice (43_line_transport.md R220, R222): a failed write changes no line and enters no
event; a write can fail only when `ioCanFail`. -/
def trySetline (id : Line) (v : Level) (s : State) : Micro :=
  match s.env with
  | [] => .go (s.write id v)
  | .pass :: rest => .go (State.write { s with env := rest } id v)
  | .fail :: rest =>
    if s.cfg.ioCanFail then .stop { s with env := rest } (.writeFailed id v) else .go (State.write { s with env := rest } id v)
  | .reset :: rest => .stop { s with env := rest } .reset

/-- DELAY with the environment's choice: it never fails (43_line_transport.md R222), a reset may cut it short. -/
def tryDelay (t : Duration) (s : State) : Micro :=
  match s.env with
  | [] => .go (s.wait t)
  | .pass :: rest | .fail :: rest => .go (State.wait { s with env := rest } t)
  | .reset :: rest => .stop { s with env := rest } .reset

/-- One micro-operation. `seq <- q` and the delivery of OK take no time and cannot be disturbed. -/
def attempt (op : MicroOp) (s : State) : Micro :=
  match op with
  | .setline id v => trySetline id v s
  | .delay t => tryDelay t s
  | .goto q => .go (s.goto q)
  | .complete => .go s.complete

/-- Micro-operations one at a time, in order (20_memory.md R64), up to the first that is stopped. -/
def runMicro : List MicroOp → State → Micro
  | [], s => .go s
  | op :: ops, s =>
    match attempt op s with
    | .go s' => runMicro ops s'
    | .stop s' why => .stop s' why

/-- The end of an operation made of micro-operations: done, a TransportFault, or cut short by a reset. -/
def conclude : Micro → Answer
  | .go s => .next (s.returns .done)
  | .stop s (.writeFailed id v) => .next (s.raise (.transportFault id v))
  | .stop s .reset => .next s.applyReset

/-! ### The transfer (43_line_transport.md R205) -/

/-- One bit cell (43_line_transport.md R208). -/
def cellOps (t : Timing) (b : Bool) : List MicroOp :=
  [.setline .data b, .setline .clk false, .delay t.tLow, .setline .clk true, .delay t.tHigh]

/-- The micro-operations of one transfer state (43_line_transport.md R207, R208, R210). -/
def bodyOps (t : Timing) (bit : Nat → Bool) : Xfer → List MicroOp
  | .idle => []
  | .asserting => [.setline .en Config.enableAssertedLevel, .delay t.tAssert]
  | .shifting i => cellOps t (bit i)
  | .deasserting =>
    [.setline .data Config.idleLevel, .delay t.tDataIdle, .setline .en Config.idleLevel, .delay t.tFinal]

/-- Bit cell `i` if there is one, else Deasserting. -/
def cellOrEnd (frameBits i : Nat) : Xfer := if i < frameBits then .shifting i else .deasserting

/-- The transition out of a transfer state (10_state.md R25). -/
def advanceOp (frameBits : Nat) : Xfer → List MicroOp
  | .idle => []
  | .asserting => [.goto (.ready (cellOrEnd frameBits 0))]
  | .shifting i => [.goto (.ready (cellOrEnd frameBits (i + 1)))]
  | .deasserting => [.complete]

/-- One transfer state: its micro-operations, then the transition out of it. -/
def segmentOps (p : Profile) (bit : Nat → Bool) (x : Xfer) : List MicroOp :=
  bodyOps p.timing bit x ++ advanceOp p.frameBits x

/-- The transfer states of a whole transfer: Asserting, every bit cell in order, Deasserting (43_line_transport.md R209). -/
def transferStates (frameBits : Nat) : List Xfer :=
  .asserting :: (List.range frameBits).map Xfer.shifting ++ [.deasserting]

/-- SHIFTOUT, whole (43_line_transport.md R205). -/
def shiftoutOps (p : Profile) (bit : Nat → Bool) : List MicroOp :=
  .goto (.ready .asserting) :: (transferStates p.frameBits).flatMap (segmentOps p bit)

/-- SHIFTOUT of the bits in SR. -/
def shiftoutMicro (s : State) : Micro := runMicro (shiftoutOps s.cfg.profile s.srBit) s

/-- EXPAND: SR from FRAME (43_line_transport.md R201). -/
def State.expand (s : State) : State := { s with sr := expandBits s.cfg.profile.frameBits s.frame }

/-! ### The startup (44_startup_replay.md, 70_reset_and_hazards.md R342) -/

/-- One event: a wait if its delay is positive, then DATA, CLK, EN (44_startup_replay.md R242, R243). -/
def eventOps (e : ReplayEvent) : List MicroOp :=
  (if e.delay.positive then [.delay e.delay] else []) ++
    [.setline .data e.data, .setline .clk e.clock, .setline .en e.enable]

/-- Event `k` and the transition to REPLAY(k+1) (10_state.md R25). -/
def replayStepOps (k : Nat) (e : ReplayEvent) : List MicroOp := eventOps e ++ [.goto (.replay (k + 1))]

/-- REPLAY, whole, from event `k` on (44_startup_replay.md R240). -/
def replayOps (k : Nat) : List ReplayEvent → List MicroOp
  | [] => [.goto (.replay k)]
  | e :: rest => .goto (.replay k) :: eventOps e ++ replayOps (k + 1) rest

/-- IDLE_ASSERT (44_startup_replay.md R245). -/
def idleAssertOps : List MicroOp :=
  [.setline .data Config.idleLevel, .setline .clk Config.idleLevel, .setline .en Config.idleLevel, .complete]

/-- LOAD: the configuration check, before any line write (60_exceptions.md R306). -/
def State.load (s : State) : State :=
  match setupFailures s.cfg with
  | [] => s.goto (.replay 0)
  | failed => s.raise (.configurationError failed)

/-! ### Phases (log entries 9 and 10) -/

/-- Do an operation only where the sequencer may; elsewhere it is not taken and nothing changes. -/
def State.when (s : State) (may : Bool) (answer : Answer) : Answer := if may then answer else .next s

/-- `seq` = REPLAY(k) with an event k to apply. -/
def State.atTraceEvent (s : State) : Bool :=
  match s.seq with
  | .replay k => decide (k < s.traceLength)
  | .load | .ready _ | .configFault => false

/-- `seq` = REPLAY(N). -/
def State.atTraceEnd (s : State) : Bool :=
  match s.seq with
  | .replay k => decide (s.traceLength ≤ k)
  | .load | .ready _ | .configFault => false

end Sys2Proof.Machine
end

