-- ==== Sys2Proof/Machine/Encoder.lean ====
section
/-! DEFINITION. ENCODE, the frame assembler (42_frame_encoder.md), and FRAME_REF40. -/

namespace Sys2Proof.Machine

/-- The locations that `position` lights for a set of segments. -/
def segmentLocations (p : Profile) (position : DigitPosition) (segments : List Segment) : List Loc :=
  segments.filterMap (locate p position)

/-- Steps 1, 3 and 4 of ENCODE on decimal digits (42_frame_encoder.md R172, R174, R175). -/
def assemble (p : Profile) (ht : Fin 3) (ho : Fin 10) (mt : Fin 6) (mo : Fin 10) : Frame :=
  setFrameBits p.baseFrame
    (p.hourTens[ht] ++ segmentLocations p .hourOnes (digitSegments ho)
      ++ segmentLocations p .minuteTens (digitSegments mt)
      ++ segmentLocations p .minuteOnes (digitSegments mo))

/-- The frame of a time in range (42_frame_encoder.md R176). -/
def encodeFrame (p : Profile) (hours minutes : Int) : Frame :=
  assemble p (hourTensOf hours) (hourOnesOf hours) (minuteTensOf minutes) (minuteOnesOf minutes)

/-- ENCODE of a time in range: the digit latches and FRAME (42_frame_encoder.md R172 to R176). -/
def State.encode (s : State) (hours minutes : Int) : State :=
  { s with
    ht := hourTensOf hours
    ho := hourOnesOf hours
    mt := minuteTensOf minutes
    mo := minuteOnesOf minutes
    frame := encodeFrame s.cfg.profile hours minutes }

/-- ENCODE (42_frame_encoder.md R170, R171, R176). -/
def execEncode (hours minutes : Int) (s : State) : Answer :=
  if timeInRange hours minutes then
    .next ((s.encode hours minutes).returns (.frame (encodeFrame s.cfg.profile hours minutes)))
  else .next (s.raise (.invalidInput hours minutes))

/-- The frame with the REF40 layout whose fields are given (30_encoding.md R84): the base copy, then the lit segments of
each digit and the hour-tens bits (4,6) and (4,0). DESIGN CHOICE (log entry 34): bits 5 to 1 of byte 4 are 0, as the pattern
of the row has them, although R84 leaves open whether `HT1` sets one of them. -/
def frameRef40 (minuteOnes minuteTens hourOnes : BitVec 7) (h6 h0 : Bool) : Frame :=
  let p := ref40 [] default
  setFrameBits p.baseFrame
    ((if h6 then [⟨4, 6⟩] else []) ++ (if h0 then [⟨4, 0⟩] else [])
      ++ segmentLocations p .hourOnes (litSegments hourOnes)
      ++ segmentLocations p .minuteTens (litSegments minuteTens)
      ++ segmentLocations p .minuteOnes (litSegments minuteOnes))

/-- FRAME_REF40: a frame in the format in which ENCODE returns one, given to the caller; the latch FRAME is written by
ENCODE only (42_frame_encoder.md R170, 10_state.md R23; log entry 11). -/
def execFrameRef40 (minuteOnes minuteTens hourOnes : BitVec 7) (h6 h0 : Bool) (s : State) : Answer :=
  .next (s.returns (.frame (frameRef40 minuteOnes minuteTens hourOnes h6 h0)))

end Sys2Proof.Machine
end

