-- ==== Sys2Proof/Machine/Commands.lean ====
section
/-! DEFINITION. The host commands (45_driver_commands.md): SEND_TIME, SEND_RAW, and the reserved opcodes. Every check is
finished before the first line write (R269). A command presented while `ready` is false is not taken (R262). -/

namespace Sys2Proof.Machine

/-- SEND_TIME: ENCODE, EXPAND, SHIFTOUT (R261). -/
def execSendTime (hours minutes : Int) (s : State) : Answer :=
  s.when s.ready
    (if timeInRange hours minutes then conclude (shiftoutMicro (s.encode hours minutes).expand)
     else .next (s.raise (.invalidInput hours minutes)))

/-- SEND_RAW: the length check, the character check, SR from the symbols, SHIFTOUT (R263 to R267). -/
def execSendRaw (symbols : List Byte) (s : State) : Answer :=
  s.when s.ready
    (if symbols.length ≠ s.cfg.profile.frameBits then .next (s.raise (.invalidLength symbols.length))
     else match firstBadSymbol 0 symbols with
       | some (n, b) => .next (s.raise (.invalidCharacter n b))
       | none => conclude (shiftoutMicro { s with sr := symbolBits symbols }))

/-- A reserved opcode byte: InvalidCommand, nothing else (R268, 60_exceptions.md R308). -/
def rejectOpcode (op : Byte) (s : State) : Answer := s.when s.ready (.next (s.raise (.invalidCommand op)))

/-- Opcode 0x00. -/
def execReserved00 (s : State) : Answer := rejectOpcode 0x00#8 s

/-- Opcode 0x03. -/
def execReserved03 (s : State) : Answer := rejectOpcode 0x03#8 s

/-- Opcodes 0x04 to 0x07. -/
def execReserved04 (low : BitVec 2) (s : State) : Answer := rejectOpcode (0b000001#6 ++ low) s

/-- Opcodes 0x08 to 0x0F. -/
def execReserved08 (low : BitVec 3) (s : State) : Answer := rejectOpcode (0b00001#5 ++ low) s

/-- Opcodes 0x10 to 0x1F. -/
def execReserved10 (low : BitVec 4) (s : State) : Answer := rejectOpcode (0b0001#4 ++ low) s

/-- Opcodes 0x20 to 0x3F. -/
def execReserved20 (low : BitVec 5) (s : State) : Answer := rejectOpcode (0b001#3 ++ low) s

/-- Opcodes 0x40 to 0x7F. -/
def execReserved40 (low : BitVec 6) (s : State) : Answer := rejectOpcode (0b01#2 ++ low) s

/-- Opcodes 0x80 to 0xFF. -/
def execReserved80 (low : BitVec 7) (s : State) : Answer := rejectOpcode (0b1#1 ++ low) s

end Sys2Proof.Machine
end

