-- ==== Sys2Proof/Machine/Font.lean ====
section
/-! DEFINITION. SEGFONT and the ten entries of FONT (40_segment_font.md), and LOCATE (41_segment_map.md). They write no
line and no latch; their value goes to the caller. -/

namespace Sys2Proof.Machine

/-- A font entry read: its mask goes to the caller (20_memory.md R50, R61). -/
def readGlyph (digit : Nat) (s : State) : Answer := .next (s.returns (.segments (glyph digit)))

/-- Glyph 0 (R122). -/
def execGlyph0 (s : State) : Answer := readGlyph 0 s

/-- Glyph 1 (R123). -/
def execGlyph1 (s : State) : Answer := readGlyph 1 s

/-- Glyph 2 (R124). -/
def execGlyph2 (s : State) : Answer := readGlyph 2 s

/-- Glyph 3 (R125). -/
def execGlyph3 (s : State) : Answer := readGlyph 3 s

/-- Glyph 4 (R126). -/
def execGlyph4 (s : State) : Answer := readGlyph 4 s

/-- Glyph 5 (R127). -/
def execGlyph5 (s : State) : Answer := readGlyph 5 s

/-- Glyph 6 (R128). -/
def execGlyph6 (s : State) : Answer := readGlyph 6 s

/-- Glyph 7 (R129). -/
def execGlyph7 (s : State) : Answer := readGlyph 7 s

/-- Glyph 8 (R130). -/
def execGlyph8 (s : State) : Answer := readGlyph 8 s

/-- Glyph 9 (R131). -/
def execGlyph9 (s : State) : Answer := readGlyph 9 s

/-- SEGFONT (R120, R121, 60_exceptions.md R301). -/
def execSegfont (digit : Int) (s : State) : Answer :=
  match segfont digit with
  | .ok m => .next (s.returns (.segments m))
  | .error c => .next (s.raise c)

/-- LOCATE (41_segment_map.md R140, R141; log entry 15). -/
def execLocate (position : DigitPosition) (segment : Segment) (s : State) : Answer :=
  .next (s.returns (.location (locate s.cfg.profile position segment)))

end Sys2Proof.Machine
end

