-- ==== Sys2Proof/Machine/Startup.lean ====
section
/-! DEFINITION. The startup replayer (44_startup_replay.md): REPLAY, one TRACE_EVENT, IDLE_ASSERT. -/

namespace Sys2Proof.Machine

/-- Event `e` applied as event `k` of the trace (R242, R243). -/
def applyEvent (k : Nat) (e : ReplayEvent) (s : State) : Answer := conclude (runMicro (replayStepOps k e) s)

/-- TRACE_EVENT: one record applied as event k in REPLAY(k), k < N (R242, R243, 10_state.md R25; log entry 10). The sequencer
performs it with record k of the trace (R240). DESIGN CHOICE (log entry 35): the row run on its own with other fields applies
its own fields, not those of record k, and moves to REPLAY(k+1) like event k; the spec has no such operation. -/
def execTraceEvent (data clock enable : Level) (delay : BitVec 29) (s : State) : Answer :=
  match s.seq with
  | .replay k =>
    s.when (decide (k < s.traceLength)) (applyEvent k (recordEvent s.cfg.traceTick data clock enable delay) s)
  | .load | .ready _ | .configFault => .next s

/-- REPLAY: all events of the trace, started in REPLAY(0) only (R240, R244; log entry 10). -/
def execReplay (s : State) : Answer :=
  s.when (s.seq == .replay 0) (conclude (runMicro (replayOps 0 (traceEvents s.cfg)) s))

/-- IDLE_ASSERT, in REPLAY(N) only (R245; log entry 10). -/
def execIdleAssert (s : State) : Answer := s.when s.atTraceEnd (conclude (runMicro idleAssertOps s))

end Sys2Proof.Machine
end

