-- ==== Sys2Proof/Machine/StatusCodes.lean ====
section
/-! DEFINITION. The status codes as operations: `status <- c` (00_scope.md R12, 30_encoding.md R103, R112; log entry 11). -/

namespace Sys2Proof.Machine

/-- Deliver a status code to the caller. -/
def deliverStatus (c : Status) (s : State) : Answer := .next ((s.deliver c).returns .done)

def execStatusOk (s : State) : Answer := deliverStatus .ok s

def execStatusInvalidInput (s : State) : Answer := deliverStatus .invalidInput s

def execStatusInvalidLength (s : State) : Answer := deliverStatus .invalidLength s

def execStatusInvalidCharacter (s : State) : Answer := deliverStatus .invalidCharacter s

def execStatusTransportFault (s : State) : Answer := deliverStatus .transportFault s

def execStatusInvalidCommand (s : State) : Answer := deliverStatus .invalidCommand s

def execStatusConfigurationError (s : State) : Answer := deliverStatus .configurationError s

def execStatusInvalidDigit (s : State) : Answer := deliverStatus .invalidDigit s

end Sys2Proof.Machine
end

