-- ==== Sys2Proof/Machine/Transport.lean ====
section
/-! DEFINITION. The line transport (43_line_transport.md): SETLINE, DELAY, EXPAND, SHIFTOUT, TRANSMIT, and the wire
formats W40 and W41. -/

namespace Sys2Proof.Machine

/-- SETLINE on its own (R220, R222; log entries 10 and 14). -/
def execSetline (id : Line) (v : Level) (s : State) : Answer :=
  s.when s.linesMayMove (conclude (runMicro [.setline id v] s))

/-- DELAY on its own (R221; log entry 10). -/
def execDelay (t : Duration) (s : State) : Answer :=
  s.when s.linesMayMove (conclude (runMicro [.delay t] s))

/-- EXPAND (R201). -/
def execExpand (s : State) : Answer := .next (s.expand.returns .done)

/-- SHIFTOUT of SR, from transfer state Idle (R205, 10_state.md R25). -/
def execShiftout (s : State) : Answer := s.when s.ready (conclude (shiftoutMicro s))

/-- TRANSMIT: EXPAND of the operand, then SHIFTOUT; it may start only in transfer state Idle (R200, 30_encoding.md R102;
log entry 30). -/
def execTransmit (frame : Frame) (s : State) : Answer :=
  s.when s.ready (conclude (shiftoutMicro { s with sr := expandBits s.cfg.profile.frameBits frame }))

/-- WIRE_W40: a bit sequence in the format EXPAND gives for 40 bits, given to the caller; the latch SR is written by EXPAND
and SEND_RAW only (R201, 30_encoding.md R86, 10_state.md R26; log entry 11). -/
def execWireW40 (bits : BitVec 40) (s : State) : Answer := .next (s.returns (.bits (wordBits bits)))

/-- WIRE_W41: the framing bit, then the 40 frame bits, given to the caller; SR is not written (R201, 30_encoding.md R87,
10_state.md R26; log entry 11). -/
def execWireW41 (bits : BitVec 40) (s : State) : Answer := .next (s.returns (.bits (Config.framingBit :: wordBits bits)))

end Sys2Proof.Machine
end

