-- ==== Sys2Proof/Machine/Dispatch.lean ====
section
/-! DEFINITION. `exec`: one arm for each constructor of `Instr`. -/

namespace Sys2Proof.Machine

def exec (i : Instr) (s : State) : Host.Outcome State Fault Refusal :=
  match i with
  | .sendTime hours minutes => Sys2Proof.Machine.execSendTime hours minutes s
  | .sendRaw symbols => Sys2Proof.Machine.execSendRaw symbols s
  | .reserved00 => Sys2Proof.Machine.execReserved00 s
  | .reserved03 => Sys2Proof.Machine.execReserved03 s
  | .reserved04 low => Sys2Proof.Machine.execReserved04 low s
  | .reserved08 low => Sys2Proof.Machine.execReserved08 low s
  | .reserved10 low => Sys2Proof.Machine.execReserved10 low s
  | .reserved20 low => Sys2Proof.Machine.execReserved20 low s
  | .reserved40 low => Sys2Proof.Machine.execReserved40 low s
  | .reserved80 low => Sys2Proof.Machine.execReserved80 low s
  | .glyph0 => Sys2Proof.Machine.execGlyph0 s
  | .glyph1 => Sys2Proof.Machine.execGlyph1 s
  | .glyph2 => Sys2Proof.Machine.execGlyph2 s
  | .glyph3 => Sys2Proof.Machine.execGlyph3 s
  | .glyph4 => Sys2Proof.Machine.execGlyph4 s
  | .glyph5 => Sys2Proof.Machine.execGlyph5 s
  | .glyph6 => Sys2Proof.Machine.execGlyph6 s
  | .glyph7 => Sys2Proof.Machine.execGlyph7 s
  | .glyph8 => Sys2Proof.Machine.execGlyph8 s
  | .glyph9 => Sys2Proof.Machine.execGlyph9 s
  | .traceEvent data clock enable delay => Sys2Proof.Machine.execTraceEvent data clock enable delay s
  | .frameRef40 minuteOnes minuteTens hourOnes h6 h0 => Sys2Proof.Machine.execFrameRef40 minuteOnes minuteTens hourOnes h6 h0 s
  | .wireW40 bits => Sys2Proof.Machine.execWireW40 bits s
  | .wireW41 bits => Sys2Proof.Machine.execWireW41 bits s
  | .statusOk => Sys2Proof.Machine.execStatusOk s
  | .statusInvalidInput => Sys2Proof.Machine.execStatusInvalidInput s
  | .statusInvalidLength => Sys2Proof.Machine.execStatusInvalidLength s
  | .statusInvalidCharacter => Sys2Proof.Machine.execStatusInvalidCharacter s
  | .statusTransportFault => Sys2Proof.Machine.execStatusTransportFault s
  | .statusInvalidCommand => Sys2Proof.Machine.execStatusInvalidCommand s
  | .statusConfigurationError => Sys2Proof.Machine.execStatusConfigurationError s
  | .statusInvalidDigit => Sys2Proof.Machine.execStatusInvalidDigit s
  | .segfont digit => Sys2Proof.Machine.execSegfont digit s
  | .locate position segment => Sys2Proof.Machine.execLocate position segment s
  | .encode hours minutes => Sys2Proof.Machine.execEncode hours minutes s
  | .expand => Sys2Proof.Machine.execExpand s
  | .transmit frame => Sys2Proof.Machine.execTransmit frame s
  | .shiftout => Sys2Proof.Machine.execShiftout s
  | .replay => Sys2Proof.Machine.execReplay s
  | .idleAssert => Sys2Proof.Machine.execIdleAssert s
  | .setline id level => Sys2Proof.Machine.execSetline id level s
  | .delay t => Sys2Proof.Machine.execDelay t s

end Sys2Proof.Machine
end

