-- ==== Sys2Proof/Machine/Sequencer.lean ====
section
/-! DEFINITION. What the sequencer does in each of its states (10_state.md R24, R25): the parts `step` is made of. -/

namespace Sys2Proof.Machine

/-- LOAD (70_reset_and_hazards.md R342 (1)). -/
def stepLoad (s : State) : Answer := .next s.load

/-- REPLAY(k): event k, or IDLE_ASSERT when there is none left (70_reset_and_hazards.md R342 (2), (3)). -/
def stepReplay (k : Nat) (s : State) : Answer :=
  match s.traceEvent k with
  | some e => applyEvent k e s
  | none => exec .idleAssert s

/-- READY(Idle): the command at the port is taken whole and executed; a port without a whole command is waited for
(30_encoding.md R95, 45_driver_commands.md R262; log entry 9). -/
def stepIdle (s : State) : Answer :=
  match decodeCommand s.port with
  | .ok (i, rest) => exec i { s with port := rest }
  | .error _ => .next s.idleWait

/-- READY(Asserting), READY(Shifting(i)), READY(Deasserting): one transfer state of the transfer in progress
(10_state.md R25, log entry 8). -/
def stepTransfer (x : Xfer) (s : State) : Answer :=
  conclude (runMicro (segmentOps s.cfg.profile s.srBit x) s)

/-- One step of the sequencer when no reset comes. -/
def stepSeq (s : State) : Answer :=
  match s.seq with
  | .load => stepLoad s
  | .replay k => stepReplay k s
  | .ready .idle => stepIdle s
  | .ready .asserting => stepTransfer .asserting s
  | .ready (.shifting i) => stepTransfer (.shifting i) s
  | .ready .deasserting => stepTransfer .deasserting s
  | .configFault => .next s.idleWait

/-- Whether a reset comes now (70_reset_and_hazards.md R344). -/
def State.resetComes (s : State) : Bool := s.env.head? == some .reset

/-- A command placed so that the next step takes it: the block is ready and the command's bytes are at the port. -/
def State.withCommand (s : State) (bytes : List Byte) : State :=
  { s with seq := .ready .idle, port := bytes, env := s.env.dropWhile (· == .reset) }

/-- A record placed so that the next step applies it: the block is in REPLAY(0) and the trace ROM holds that record. -/
def State.withRecord (s : State) (w : BitVec 32) : State :=
  { s with
    seq := .replay 0
    cfg := { s.cfg with asset := .rom [w] }
    env := s.env.dropWhile (· == .reset) }

end Sys2Proof.Machine
end

