-- ==== Sys2Proof/Machine/Step.lean ====
section
/-! DEFINITION. `step`, one step of the sequencer, and how a word of the opcode table is placed where it is read next. -/

namespace Sys2Proof.Machine

/-- One step: a reset if one comes (in every state of the sequencer, CONFIG_FAULT too), else what `seq` says. -/
def step (s : State) : Host.Outcome State Fault Refusal :=
  if s.resetComes then .next (State.applyReset { s with env := s.env.tail }) else stepSeq s

/-- The instruction of a word of the table where `step` reads it next: a 32-bit word in the trace ROM, every other at the
command port (log entries 22 and 23). -/
def State.withFetchWord (s : State) (nbits w : Nat) : State :=
  if nbits = 32 then s.withRecord (BitVec.ofNat 32 w) else s.withCommand (tableCommand nbits w)

end Sys2Proof.Machine
end

