-- ==== Sys2Proof/Machine/Observe.lean ====
section
/-! DEFINITION. What an observer of the block sees: the closed forms of the output trace, its normal form, its nominal
duration and the waveform it gives (00_scope.md R14, R15). No part of the machine reads them. -/

namespace Sys2Proof.Machine

/-! ### Closed forms -/

/-- `cell(b)` (43_line_transport.md R212). -/
def cellTrace (t : Timing) (b : Bool) : List Event :=
  [.w .data b, .w .clk false, .d t.tLow, .w .clk true, .d t.tHigh]

/-- `T(SR)`, the trace of a transfer that runs to its end (43_line_transport.md R212). -/
def transferTrace (t : Timing) (bits : List Bool) : List Event :=
  [.w .en false, .d t.tAssert] ++ bits.flatMap (cellTrace t) ++
    [.w .data true, .d t.tDataIdle, .w .en true, .d t.tFinal]

/-- The trace of one replay event (44_startup_replay.md R242, R243). -/
def eventTrace (e : ReplayEvent) : List Event :=
  (if e.delay.positive then [.d e.delay] else []) ++ [.w .data e.data, .w .clk e.clock, .w .en e.enable]

/-- The trace of REPLAY (44_startup_replay.md R244). -/
def replayTrace (events : List ReplayEvent) : List Event := events.flatMap eventTrace

/-- The trace of IDLE_ASSERT (44_startup_replay.md R245). -/
def idleAssertTrace : List Event := [.w .data true, .w .clk true, .w .en true]

/-- The events a micro-operation adds to the trace. -/
def opTrace : MicroOp → List Event
  | .setline id v => [.w id v]
  | .delay t => [.d t]
  | .goto _ | .complete => []

/-- The events a sequence of micro-operations adds to the trace. -/
def opsTrace (ops : List MicroOp) : List Event := ops.flatMap opTrace

/-- The state after a transfer of `bits` that nothing disturbs (43_line_transport.md R211, R212, R213): the trace has grown
by `T(SR)`, the lines are idle, OK is delivered, and the environment's draws for its `5n + 6` events are used up. -/
def State.afterTransfer (s : State) (bits : List Bool) : State :=
  { s with
    lines := { data := true, clk := true, en := true }
    seq := .ready .idle
    delivered := s.delivered ++ [.ok]
    trace := s.trace ++ transferTrace s.cfg.profile.timing bits
    env := s.env.drop (5 * bits.length + 6)
    result := .done
    faulted := false }

/-- The state after a rejected command or operation: the status and the condition are delivered, nothing else changes
(60_exceptions.md R302 to R304, R308). -/
def State.afterRejection (s : State) (c : Condition) (code : Status) : State :=
  { s with delivered := s.delivered ++ [code], result := .raised c }

/-- The number of line writes in a trace. -/
def writeCount (events : List Event) : Nat :=
  (events.filter fun e => match e with
    | .w _ _ => true
    | .d _ => false).length

/-! ### Equality of traces, duration, waveform -/

/-- The seconds of one unit of time (log entry 1). -/
noncomputable def unitSeconds (unit : Nat) : ℝ := if unit = 0 then 1 else (Config.unitSeconds unit).val

/-- The seconds of a duration, a real number (00_scope.md R11; log entry 1). -/
noncomputable def seconds (t : Duration) : ℝ := t.count * unitSeconds t.unit

/-- An event of a trace in normal form: a write, or a delay in seconds. -/
inductive NormalEvent where
  | w (id : Line) (v : Level)
  | d (t : ℝ)

/-- The normal form of a trace: no delay of zero or less, adjacent delays added (00_scope.md R14). -/
noncomputable def normalise : List Event → List NormalEvent
  | [] => []
  | .w id v :: rest => .w id v :: normalise rest
  | .d t :: rest =>
    if t.positive then
      match normalise rest with
      | .d u :: rest' => .d (seconds t + u) :: rest'
      | rest' => .d (seconds t) :: rest'
    else normalise rest

/-- Two traces are equal for every purpose of the spec (00_scope.md R14). -/
def sameTrace (xs ys : List Event) : Prop := normalise xs = normalise ys

/-- The nominal duration of a trace in seconds: the sum of its delays. -/
noncomputable def traceDuration : List Event → ℝ
  | [] => 0
  | .d t :: rest => seconds t + traceDuration rest
  | .w _ _ :: rest => traceDuration rest

/-- The level of a line at nominal time `at'`, from the events from time `now` on and the level before them; `none` is
unknown (00_scope.md R15, 70_reset_and_hazards.md R341). -/
noncomputable def levelFrom (id : Line) (at' : ℝ) (now : ℝ) (level : Option Level) : List Event → Option Level
  | [] => level
  | .d t :: rest => levelFrom id at' (now + seconds t) level rest
  | .w j v :: rest =>
    if now ≤ at' then levelFrom id at' now (if j = id then some v else level) rest else level

/-- The waveform of a trace: the level of a line at a nominal time, from the levels before the trace. -/
noncomputable def waveform (before : Line → Option Level) (events : List Event) (id : Line) (time : ℝ) : Option Level :=
  levelFrom id time 0 (before id) events

/-- The last level a trace writes to a line, if it writes it at all. -/
def lastWrite (id : Line) : List Event → Option Level
  | [] => none
  | .w j v :: rest => (lastWrite id rest).or (if j = id then some v else none)
  | .d _ :: rest => lastWrite id rest

/-! ### The environment -/

/-- A draw that lets the micro-operation through: a failure is one only when `ioCanFail` (43_line_transport.md R222). -/
def harmless (ioCanFail : Bool) : Draw → Bool
  | .pass => true
  | .fail => !ioCanFail
  | .reset => false

/-- Neither a failing write nor a reset is coming. -/
def State.undisturbed (s : State) : Bool := s.env.all (harmless s.cfg.ioCanFail)

/-- How many of the environment's draws a sequence of micro-operations uses: one for each SETLINE and each DELAY. -/
def drawsUsed (ops : List MicroOp) : Nat := (opsTrace ops).length

end Sys2Proof.Machine
end

