-- ==== Sys2Proof/Safety.lean ====
section
/-! DEFINITION. What counts as a sound state of the block, and which moves of the sequencer are legal. -/

namespace Sys2Proof.Machine

/-- All three lines at the idle level (43_line_transport.md R230). -/
def State.linesIdle (s : State) : Prop := s.lines.data = true ∧ s.lines.clk = true ∧ s.lines.en = true

/-- Startup has begun and its configuration check has passed. -/
def State.started (s : State) : Prop := s.seq ≠ .load ∧ s.seq ≠ .configFault

/-- The sequencer is in step with its configuration: past LOAD the configuration is well-formed, `k` and `i` are in range
(10_state.md R24), SR has exactly `frameBits` bits (R26). -/
structure SequencerSound (s : State) : Prop where
  setup : s.started → setupOk s.cfg = true
  replayIndex : ∀ k, s.seq = .replay k → k ≤ s.traceLength
  bitIndex : ∀ i, s.seq = .ready (.shifting i) → i < s.cfg.profile.frameBits
  srLength : s.sr.length = s.cfg.profile.frameBits

/-- The idle invariant with what carries it through a transfer (43_line_transport.md R230): the clock is high after the last
cell, and in READY(Idle) all lines are high unless a TransportFault has occurred since the last completed transfer. -/
structure IdleHigh (s : State) : Prop where
  sound : SequencerSound s
  clockHigh : s.seq = .ready .deasserting → s.lines.clk = true
  idle : s.seq = .ready .idle → s.faulted = false → s.linesIdle

/-- What has been put out so far fits the phase: nothing in LOAD (70_reset_and_hazards.md R342), exactly the first `k` events
in REPLAY(k) (44_startup_replay.md R244), no status before startup ends (10_state.md R45), the startup's status after it, and
in CONFIG_FAULT either nothing written (60_exceptions.md R306) or a failed write reported (R307). -/
structure OutputSound (s : State) : Prop where
  sound : SequencerSound s
  load : s.seq = .load → s.trace = [] ∧ s.delivered = []
  replay : ∀ k, s.seq = .replay k → s.trace = replayTrace ((traceEvents s.cfg).take k) ∧ s.delivered = []
  ready : ∀ x, s.seq = .ready x → s.delivered.head? = some .ok
  configFault : s.seq = .configFault →
    (s.delivered = [.configurationError] ∧ s.trace = []) ∨ s.delivered = [.transportFault]

/-- Each line is at the level the trace last wrote to it; before that it is unspecified (10_state.md R21,
70_reset_and_hazards.md R341). -/
def LinesFollowTrace (s : State) : Prop :=
  ∀ id v, lastWrite id s.trace = some v → s.lines.get id = v

/-- What a command is rejected for, and with which status: the checks of 42_frame_encoder.md R171 and 45_driver_commands.md
R264, R265, R268, length before character (the spec's decision D13). The only commands of one byte are the reserved opcodes. -/
inductive Rejection (frameBits : Nat) : Instr → Condition → Status → Prop where
  | input (hours minutes : Int) (bad : timeInRange hours minutes = false) :
      Rejection frameBits (.sendTime hours minutes) (.invalidInput hours minutes) .invalidInput
  | length (symbols : List Byte) (bad : symbols.length ≠ frameBits) :
      Rejection frameBits (.sendRaw symbols) (.invalidLength symbols.length) .invalidLength
  | character (symbols : List Byte) (n : Nat) (b : Byte) (long : symbols.length = frameBits)
      (bad : firstBadSymbol 0 symbols = some (n, b)) :
      Rejection frameBits (.sendRaw symbols) (.invalidCharacter n b) .invalidCharacter
  | opcode (i : Instr) (op : Byte) (reserved : encodeCommand i = some [op]) :
      Rejection frameBits i (.invalidCommand op) .invalidCommand

/-- The bits a command that passes its checks transfers (45_driver_commands.md R261, R263 to R267). -/
inductive Sends (p : Profile) : Instr → List Bool → Prop where
  | time (hours minutes : Int) (good : timeInRange hours minutes = true) :
      Sends p (.sendTime hours minutes) (expandBits p.frameBits (encodeFrame p hours minutes))
  | raw (symbols : List Byte) (long : symbols.length = p.frameBits) (good : firstBadSymbol 0 symbols = none) :
      Sends p (.sendRaw symbols) (symbolBits symbols)

/-- Between `s` and `t` a line write of the output `full` failed: the environment failed exactly that write, only what stands
before it in `full` went out, and TransportFault was delivered (43_line_transport.md R222, 60_exceptions.md R305, R307). -/
def WriteFailed (s t : State) (full : List Event) : Prop :=
  s.cfg.ioCanFail = true ∧ t.delivered = s.delivered ++ [.transportFault] ∧
    ∃ out id v, out ++ [.w id v] <+: full ∧ s.env[out.length]? = some .fail ∧ t.trace = s.trace ++ out

/-- What a step in REPLAY(k) puts out: event `k`, or IDLE_ASSERT behind the last (44_startup_replay.md R242, R245). -/
def State.startupTrace (s : State) (k : Nat) : List Event := ((s.traceEvent k).map eventTrace).getD idleAssertTrace

/-- What a step in a transfer state puts out (43_line_transport.md R207, R208, R210). -/
def State.transferPart (s : State) : Xfer → List Event
  | .idle => []
  | .asserting => [.w .en false, .d s.cfg.profile.timing.tAssert]
  | .shifting i => cellTrace s.cfg.profile.timing (s.srBit i)
  | .deasserting => [.w .data true, .d s.cfg.profile.timing.tDataIdle, .w .en true, .d s.cfg.profile.timing.tFinal]

/-- The moves of `seq` that a step from `s` to `t` may make, each with what 10_state.md R25 says of when it is made: what
went out on the lines and which status was delivered (60_exceptions.md R306, R307 for startup). A whole command is one step
(log entry 8): it is rejected with nothing put out, or its transfer goes out whole and ends with OK, or a failed write cuts
the transfer short. A step that waits, and CONFIG_FAULT, stay where they are; reset leads to LOAD from everywhere. -/
inductive LegalMove (s t : State) : Prop where
  /-- A reset was coming, and it ended the run (70_reset_and_hazards.md R344). -/
  | reset (came : Draw.reset ∈ s.env) (ended : ∃ r, t.past = s.past ++ [r]) (target : t.seq = .load)
  | loadFails (source : s.seq = .load) (target : t.seq = .configFault) (check : setupOk s.cfg = false)
    (out : t.trace = s.trace) (told : t.delivered = s.delivered ++ [.configurationError])
  | loadPasses (source : s.seq = .load) (target : t.seq = .replay 0) (check : setupOk s.cfg = true)
    (out : t.trace = s.trace) (told : t.delivered = s.delivered)
  /-- Event `k` applied. -/
  | event (k : Nat) (e : ReplayEvent) (source : s.seq = .replay k) (target : t.seq = .replay (k + 1))
    (applied : s.traceEvent k = some e) (out : t.trace = s.trace ++ eventTrace e) (told : t.delivered = s.delivered)
  /-- IDLE_ASSERT done. -/
  | startupDone (source : s.seq = .replay s.traceLength) (target : t.seq = .ready .idle)
    (out : t.trace = s.trace ++ idleAssertTrace) (told : t.delivered = s.delivered ++ [.ok])
  /-- A line write of startup failed. -/
  | startupFault (k : Nat) (source : s.seq = .replay k) (target : t.seq = .configFault)
    (failed : WriteFailed s t (s.startupTrace k))
  /-- A command taken whole and rejected: only the status and the condition are new (45_driver_commands.md R269). -/
  | rejected (i : Instr) (c : Condition) (code : Status) (source : s.seq = .ready .idle)
    (taken : decodeCommand s.port = .ok (i, t.port)) (why : Rejection s.cfg.profile.frameBits i c code)
    (same : t = State.afterRejection { s with port := t.port } c code)
  /-- A command taken whole, its transfer done (43_line_transport.md R211). -/
  | transferred (i : Instr) (bits : List Bool) (source : s.seq = .ready .idle) (target : t.seq = .ready .idle)
    (taken : decodeCommand s.port = .ok (i, t.port)) (sends : Sends s.cfg.profile i bits)
    (out : t.trace = s.trace ++ transferTrace s.cfg.profile.timing bits) (told : t.delivered = s.delivered ++ [.ok])
  /-- A command taken whole, a line write of its transfer failed. -/
  | commandFault (i : Instr) (bits : List Bool) (source : s.seq = .ready .idle) (target : t.seq = .ready .idle)
    (taken : decodeCommand s.port = .ok (i, t.port)) (sends : Sends s.cfg.profile i bits)
    (failed : WriteFailed s t (transferTrace s.cfg.profile.timing bits))
  /-- No whole command at the port. -/
  | waits (e : DecodeError) (source : s.seq = .ready .idle) (incomplete : decodeCommand s.port = .error e)
    (same : t = s.idleWait)
  /-- EN asserted and `tAssert` elapsed. -/
  | asserted (source : s.seq = .ready .asserting) (target : t.seq = .ready (.shifting 0))
    (out : t.trace = s.trace ++ s.transferPart .asserting) (told : t.delivered = s.delivered)
  /-- Bit `i` shifted, and it is not the last. -/
  | bit (i : Nat) (source : s.seq = .ready (.shifting i)) (more : i + 1 < s.cfg.profile.frameBits)
    (target : t.seq = .ready (.shifting (i + 1)))
    (out : t.trace = s.trace ++ s.transferPart (.shifting i)) (told : t.delivered = s.delivered)
  /-- The last bit shifted. -/
  | lastBit (i : Nat) (source : s.seq = .ready (.shifting i)) (last : i + 1 = s.cfg.profile.frameBits)
    (target : t.seq = .ready .deasserting)
    (out : t.trace = s.trace ++ s.transferPart (.shifting i)) (told : t.delivered = s.delivered)
  /-- Deassertion done, OK delivered. -/
  | deasserted (source : s.seq = .ready .deasserting) (target : t.seq = .ready .idle)
    (out : t.trace = s.trace ++ s.transferPart .deasserting) (told : t.delivered = s.delivered ++ [.ok])
  /-- A line write of a transfer in progress failed. -/
  | transferFault (x : Xfer) (inside : x ≠ .idle) (source : s.seq = .ready x) (target : t.seq = .ready .idle)
    (failed : WriteFailed s t (s.transferPart x))
  | configFault (source : s.seq = .configFault) (same : t = s.idleWait)

end Sys2Proof.Machine
end

