-- ==== Sys2Proof/Certificates/Slice0/Obligations.lean ====
section
/-! DEFINITION. The statements for the provers. Each docstring names the rules it formalises. -/

open Sys2Proof Sys2Proof.Machine

/-! ### Encodings -/

/-- Words written out from 30_encoding.md R84, R86, R87, R92, R96, R97, R99, R103 and 40_segment_font.md R122, R131 decode
to what they stand for. -/
def Obligations.WrittenOutWordsDecode : Prop :=
  decodeCommand [0x01, 0x15, 0x1F] = .ok (.sendTime 21 31, []) ∧
  decodeCommand [0x01, 0xFF, 0x1E] = .ok (.sendTime (-1) 30, []) ∧
  decodeCommand [0x02, 0x03, 0x30, 0x31, 0x32, 0x07] = .ok (.sendRaw [0x30, 0x31, 0x32], [0x07]) ∧
  decodeCommand [0x07, 0x01] = .ok (.reserved04 3, [0x01]) ∧
  decodeCommand [0xFF] = .ok (.reserved80 0x7F, []) ∧
  decodeCommand [0x01, 0x15] = .error .truncated ∧
  decode ⟨.seg7, [true, true, true, true, true, true, false]⟩ = .ok .glyph0 ∧
  decode ⟨.seg7, [true, true, true, true, false, true, true]⟩ = .ok .glyph9 ∧
  decode ⟨.trec32, wordBits 0xA0000000#32⟩ = .ok (.traceEvent true false true 0) ∧
  decode ⟨.trec32, wordBits 0xFFFFFFFB#32⟩ = .ok (.traceEvent true true true (-5)) ∧
  decode ⟨.frame40, wordBits 0xAC347D3441#40⟩
    = .ok (.frameRef40 0b0110000 0b1111001 0b0110000 true true) ∧
  decode ⟨.w40, wordBits 0xAC34343400#40⟩ = .ok (.wireW40 0xAC34343400#40) ∧
  decode ⟨.w41, true :: wordBits 0xAC34343400#40⟩ = .ok (.wireW41 0xAC34343400#40) ∧
  decode ⟨.stat8, byteBits 0x04⟩ = .ok .statusTransportFault ∧
  decode ⟨.stat8, byteBits 0x08⟩ = .error .noSuchStatus

/-- Every well-formed operation that has an encoding is read back from it, with every operand. -/
def Obligations.DecodeOfEncodeIsTheOperation : Prop :=
  ∀ (i : Instr) (c : Coded), WellFormed i = true → encode i = some c → decode c = .ok i

/-- Whatever a decoder reads is a well-formed operation whose encoding is exactly those bits: no word has two readings in
its format and none is read that the encoder would not write. -/
def Obligations.EncodeOfDecodeIsTheWord : Prop :=
  ∀ (c : Coded) (i : Instr), decode c = .ok i → WellFormed i = true ∧ encode i = some c

/-- In a stream, a command is read from its own bytes, whatever follows, and its length is told by its first one or two
bytes (30_encoding.md R95, R98). -/
def Obligations.CommandStreamSplitsAtCommandLength : Prop :=
  ∀ (i : Instr) (bytes rest : List Byte), WellFormed i = true → encodeCommand i = some bytes →
    decodeCommand (bytes ++ rest) = .ok (i, rest) ∧ commandLength (bytes ++ rest) = bytes.length

/-! ### Steps -/

/-- In READY(Idle), with no reset coming, a step takes the command at the port whole and is `exec` of it
(30_encoding.md R95, 45_driver_commands.md R262). Every command the decoder reads is well-formed. -/
def Obligations.StepRunsTheDecodedCommand : Prop :=
  ∀ (s : State) (i : Instr) (rest : List Byte), s.seq = .ready .idle → s.env.head? ≠ some .reset →
    decodeCommand s.port = .ok (i, rest) →
    WellFormed i = true ∧ step s = exec i { s with port := rest }

/-- In REPLAY(k) with a trace ROM, a step is `exec` of the record `k` the decoder reads, and behind the last record it is
IDLE_ASSERT (44_startup_replay.md R240, R245, 70_reset_and_hazards.md R342). -/
def Obligations.StepRunsTheTraceRecord : Prop :=
  ∀ (s : State) (k : Nat) (records : List (BitVec 32)), s.seq = .replay k → s.env.head? ≠ some .reset →
    s.cfg.asset = .rom records →
    (∀ w, records[k]? = some w → step s = exec (recordInstr w) s) ∧
    (records[k]? = none → step s = exec .idleAssert s)

/-- A command whose bytes are not all there yet is waited for: nothing changes but the environment's draw for the wait
(45_driver_commands.md R262; the waiting step itself is the model's choice, log entries 6 and 9). -/
def Obligations.IncompleteCommandIsWaitedFor : Prop :=
  ∀ (s : State), s.seq = .ready .idle → s.env.head? ≠ some .reset →
    (s.port = [] ∨ (∃ hh, s.port = [0x01#8] ∨ s.port = [0x01#8, hh]) ∨ s.port = [0x02#8] ∨
      (∃ len symbols, s.port = 0x02#8 :: len :: symbols ∧ symbols.length < len.toNat)) →
    step s = .next { s with env := s.env.tail }

/-- A reset, in any state of the sequencer, ends the run with what it had put out and leaves the block at reset release:
`seq` = LOAD, no status, nothing put out, not ready, the configuration as it was (70_reset_and_hazards.md R340, R344,
10_state.md R45). -/
def Obligations.ResetRestartsFromEveryState : Prop :=
  ∀ (s : State), s.env.head? = some .reset →
    ∃ t, step s = .next t ∧ t.seq = .load ∧ t.cfg = s.cfg ∧ t.trace = [] ∧ t.delivered = [] ∧ t.status = none ∧
      t.ready = false ∧ t.past = s.past ++ [{ trace := s.trace, delivered := s.delivered }] ∧ t.port = s.port ∧
      t.env = s.env.tail ∧ t.faulted = false

/-- LOAD: when the configuration passes every check the sequencer goes to REPLAY(0); when it fails one, ConfigurationError
is delivered and the sequencer stands in CONFIG_FAULT; no line is written either way (60_exceptions.md R306,
70_reset_and_hazards.md R342; what the condition records is log entry 16). -/
def Obligations.LoadChecksTheConfiguration : Prop :=
  ∀ (s : State), s.seq = .load → s.env.head? ≠ some .reset →
    (setupOk s.cfg = true → step s = .next { s with seq := .replay 0 }) ∧
    (setupOk s.cfg = false → ∃ failed, failed ≠ [] ∧ step s =
      .next { s with seq := .configFault, delivered := s.delivered ++ [.configurationError],
                     result := .raised (.configurationError failed) })

/-- The configuration check, clause by clause (10_state.md R40, R31, 44_startup_replay.md R241): (a) all 21 entries exist, (b)
every location is in the frame, (c) the 21 are distinct, (d) base 1-bits, segments and hour-tens do not meet, (e) hour-tens
0 is empty and the three sets differ, (f) 40 or 41 bits, (g) no negative time; and the trace is there and well-formed. That a
hour-tens location is in byte 4 (R31) is checked with them, which is the model's reading (log entry 17). -/
def Obligations.ConfigurationCheckIsRuleR40 : Prop :=
  ∀ (c : Setup), setupOk c = true ↔
    (∀ position segment, ∃ l, locate c.profile position segment = some l ∧ l.byteIndex ≤ 4 ∧ l.bitIndex ≤ 7 ∧
      frameBit c.profile.baseFrame l = false ∧ ∀ k : Fin 3, l ∉ c.profile.hourTens[k]) ∧
    (∀ (k : Fin 3) l, l ∈ c.profile.hourTens[k] →
      l.byteIndex = 4 ∧ l.bitIndex ≤ 7 ∧ frameBit c.profile.baseFrame l = false) ∧
    (∀ position segment position' segment',
      locate c.profile position segment = locate c.profile position' segment' →
      position = position' ∧ segment = segment') ∧
    c.profile.hourTens[0] = [] ∧
    (∀ j k : Fin 3, j ≠ k → ∃ l, ¬(l ∈ c.profile.hourTens[j] ↔ l ∈ c.profile.hourTens[k])) ∧
    (c.profile.frameBits = 40 ∨ c.profile.frameBits = 41) ∧
    (0 ≤ seconds c.profile.timing.tAssert ∧ 0 ≤ seconds c.profile.timing.tLow ∧ 0 ≤ seconds c.profile.timing.tHigh ∧
      0 ≤ seconds c.profile.timing.tDataIdle ∧ 0 ≤ seconds c.profile.timing.tFinal) ∧
    ((∃ records, c.asset = .rom records) ∨
     (∃ rows, c.asset = .file rows ∧ ∀ r ∈ rows, (∃ t, r.delay = some t) ∧
        (r.data = some 0 ∨ r.data = some 1) ∧ (r.clock = some 0 ∨ r.clock = some 1) ∧
        (r.enable = some 0 ∨ r.enable = some 1)))

/-! ### Font, map, encoder -/

/-- The ten glyphs: mask and lit segments, and nothing of the block changes but what is given to the caller
(40_segment_font.md R122 to R131; that a glyph row gives its mask to the caller is the model's choice, log entry 11). -/
def Obligations.GlyphsGiveTheirSegments : Prop :=
  ∀ (s : State),
    exec .glyph0 s = .next { s with result := .segments 0b1111110#7 } ∧
    exec .glyph1 s = .next { s with result := .segments 0b0110000#7 } ∧
    exec .glyph2 s = .next { s with result := .segments 0b1101101#7 } ∧
    exec .glyph3 s = .next { s with result := .segments 0b1111001#7 } ∧
    exec .glyph4 s = .next { s with result := .segments 0b0110011#7 } ∧
    exec .glyph5 s = .next { s with result := .segments 0b1011011#7 } ∧
    exec .glyph6 s = .next { s with result := .segments 0b1011111#7 } ∧
    exec .glyph7 s = .next { s with result := .segments 0b1110000#7 } ∧
    exec .glyph8 s = .next { s with result := .segments 0b1111111#7 } ∧
    exec .glyph9 s = .next { s with result := .segments 0b1111011#7 }

/-- SEGFONT for every integer: the standard glyph of a digit 0..9, InvalidDigit with the operand outside, and no state of the
block changes either way (40_segment_font.md R120, R121, 60_exceptions.md R301). The lit sets are the source's letters. -/
def Obligations.SegfontIsTheStandardFont : Prop :=
  ∀ (s : State) (digit : Int),
    (0 ≤ digit → digit ≤ 9 → ∃ m, exec (.segfont digit) s = .next { s with result := .segments m } ∧
      litSegments m = [[.a, .b, .c, .d, .e, .f], [.b, .c], [.a, .b, .d, .e, .g], [.a, .b, .c, .d, .g], [.b, .c, .f, .g],
        [.a, .c, .d, .f, .g], [.a, .c, .d, .e, .f, .g], [.a, .b, .c], [.a, .b, .c, .d, .e, .f, .g],
        [.a, .b, .c, .d, .f, .g]].getD digit.toNat []) ∧
    (digit < 0 ∨ 9 < digit → exec (.segfont digit) s = .next { s with result := .raised (.invalidDigit digit) })

/-- LOCATE completes on every operand, gives the profile's entry and changes nothing else (41_segment_map.md R140); for a
configuration that has passed LOAD the entry exists and two operand pairs never give one location (R141). With a profile that LOAD
rejects, that a missing entry gives no location is the model's reading (log entry 15), and that a location outside the frame is
given as it stands is the model's choice (log entry 36). -/
def Obligations.LocateReadsTheProfile : Prop :=
  ∀ (s : State) (position : DigitPosition) (segment : Segment),
    exec (.locate position segment) s = .next { s with result := .location (locate s.cfg.profile position segment) } ∧
    (setupOk s.cfg = true → ∃ l, locate s.cfg.profile position segment = some l ∧ inFrame l = true ∧
      ∀ position' segment', locate s.cfg.profile position' segment' = some l → position' = position ∧ segment' = segment)

/-- The 21 locations of REF40 (41_segment_map.md R153; the entries marked decided there are the spec's decision D2). -/
def Obligations.Ref40LocationTable : Prop :=
  ∀ (ht1 : List Loc) (timing : Timing),
    (allSegments.map (locate (ref40 ht1 timing) .hourOnes)
      = [some ⟨3, 6⟩, some ⟨3, 5⟩, some ⟨3, 4⟩, some ⟨3, 3⟩, some ⟨3, 7⟩, some ⟨3, 1⟩, some ⟨3, 0⟩]) ∧
    (allSegments.map (locate (ref40 ht1 timing) .minuteTens)
      = [some ⟨2, 6⟩, some ⟨2, 5⟩, some ⟨2, 4⟩, some ⟨2, 3⟩, some ⟨2, 7⟩, some ⟨2, 1⟩, some ⟨2, 0⟩]) ∧
    (allSegments.map (locate (ref40 ht1 timing) .minuteOnes)
      = [some ⟨1, 6⟩, some ⟨1, 5⟩, some ⟨1, 4⟩, some ⟨1, 3⟩, some ⟨4, 7⟩, some ⟨1, 1⟩, some ⟨1, 0⟩])

/-- REF40 passes the profile check exactly for the sets `HT1` the source admits, whatever its non-negative times
(41_segment_map.md R152, 10_state.md R31, R40; log entry 17 for R31). -/
def Obligations.Ref40WellFormedForAdmissibleHt1 : Prop :=
  ∀ (ht1 : List Loc) (timing : Timing), timingNonNegative (ref40 ht1 timing) = true →
    (profileOk (ref40 ht1 timing) = true ↔ ht1Admissible ht1 = true)

/-- ENCODE of a time in range completes in every state: the four decimal digits, and a frame whose bits are exactly the base
bits, the hour-tens set and the lit segments of the three glyph digits; no other field changes but what is given to the caller
(42_frame_encoder.md R170, R172 to R176; that, with a profile LOAD rejects, a missing entry or a location outside the frame sets
no bit is the model's choice, log entries 15 and 36). -/
def Obligations.EncodeBuildsTheFrame : Prop :=
  ∀ (s : State) (hours minutes : Int), 0 ≤ hours → hours ≤ 23 → 0 ≤ minutes → minutes ≤ 59 →
    ∃ t, exec (.encode hours minutes) s = .next t ∧
      t = { s with ht := t.ht, ho := t.ho, mt := t.mt, mo := t.mo, frame := t.frame, result := .frame t.frame } ∧
      (t.ht : Int) = hours / 10 ∧ (t.ho : Int) = hours % 10 ∧ (t.mt : Int) = minutes / 10 ∧ (t.mo : Int) = minutes % 10 ∧
      ∀ l, inFrame l = true → (frameBit t.frame l = true ↔
        frameBit s.cfg.profile.baseFrame l = true ∨ l ∈ s.cfg.profile.hourTens[t.ht] ∨
        (∃ seg, isLit (glyph t.ho) seg = true ∧ locate s.cfg.profile .hourOnes seg = some l) ∨
        (∃ seg, isLit (glyph t.mt) seg = true ∧ locate s.cfg.profile .minuteTens seg = some l) ∨
        (∃ seg, isLit (glyph t.mo) seg = true ∧ locate s.cfg.profile .minuteOnes seg = some l))

/-- InvalidInput: ENCODE in every state, and SEND_TIME when ready, reject hours outside 0..23 or minutes outside 0..59, record
both operands and deliver code 1; FRAME, SR, digit latches, lines, trace and `seq` are unchanged (60_exceptions.md R302;
that ENCODE run on its own delivers a status is the model's reading, log entry 28). -/
def Obligations.InvalidInputChangesNothing : Prop :=
  statusCode .invalidInput = 1 ∧
  ∀ (s : State) (hours minutes : Int), (hours < 0 ∨ 23 < hours ∨ minutes < 0 ∨ 59 < minutes) →
    exec (.encode hours minutes) s = .next (s.afterRejection (.invalidInput hours minutes) .invalidInput) ∧
    (s.seq = .ready .idle →
      exec (.sendTime hours minutes) s = .next (s.afterRejection (.invalidInput hours minutes) .invalidInput))

/-- Segment round-trip: for every profile that passes its check and every valid time, the frame bit at the location of a
segment is 1 exactly if the font lights that segment for the digit of that position (42_frame_encoder.md R181). -/
def Obligations.FrameShowsExactlyTheGlyphs : Prop :=
  ∀ (p : Profile) (hours minutes : Int), profileOk p = true → timeInRange hours minutes = true →
    ∀ (seg : Segment) (l : Loc),
      (locate p .hourOnes seg = some l →
        frameBit (encodeFrame p hours minutes) l = isLit (glyph (hours % 10).toNat) seg) ∧
      (locate p .minuteTens seg = some l →
        frameBit (encodeFrame p hours minutes) l = isLit (glyph (minutes / 10).toNat) seg) ∧
      (locate p .minuteOnes seg = some l →
        frameBit (encodeFrame p hours minutes) l = isLit (glyph (minutes % 10).toNat) seg)

/-- Hour-tens invariant: hours h and h + 10 (h + 20) give frames that differ exactly in the locations of hour-tens set 1
(set 2) (42_frame_encoder.md R180). -/
def Obligations.HourTensChangesOnlyItsBits : Prop :=
  ∀ (p : Profile) (hours minutes : Int) (l : Loc), profileOk p = true → 0 ≤ minutes → minutes ≤ 59 → inFrame l = true →
    (0 ≤ hours → hours ≤ 9 →
      (frameBit (encodeFrame p hours minutes) l ≠ frameBit (encodeFrame p (hours + 10) minutes) l ↔ l ∈ p.hourTens[1])) ∧
    (0 ≤ hours → hours ≤ 3 →
      (frameBit (encodeFrame p hours minutes) l ≠ frameBit (encodeFrame p (hours + 20) minutes) l ↔ l ∈ p.hourTens[2]))

/-- ENCODE is one-to-one on the 1440 valid times, for every profile that passes its check (42_frame_encoder.md R182). -/
def Obligations.EncodeIsOneToOne : Prop :=
  ∀ (p : Profile) (h m h' m' : Int), profileOk p = true → timeInRange h m = true → timeInRange h' m' = true →
    encodeFrame p h m = encodeFrame p h' m' → h = h' ∧ m = m'

/-- The closed form of REF40 (41_segment_map.md R157, under the spec's decisions D1 and D2): byte 0 is 0xAC, bytes 2 and 3
are `(m & 0x7B) | 0x04 | (m[2] << 7)`, byte 1 is `(m & 0x7B) | 0x04`, byte 4 has MinuteOnes E in bit 7 and, for hour-tens 0
and 2, the two hour-tens bits. -/
def Obligations.Ref40ClosedForm : Prop :=
  ∀ (ht1 : List Loc) (timing : Timing) (hours minutes : Int),
    timeInRange hours minutes = true → (hours < 10 ∨ 20 ≤ hours) →
    let digitByte := fun (d : Int) => ((glyph d.toNat).setWidth 8 &&& 0x7B#8) ||| 0x04#8
    let e := fun (d : Int) => if isLit (glyph d.toNat) .e = true then 0x80#8 else 0#8
    encodeFrame (ref40 ht1 timing) hours minutes =
      #v[0xAC#8, digitByte (minutes % 10), digitByte (minutes / 10) ||| e (minutes / 10),
         digitByte (hours % 10) ||| e (hours % 10), e (minutes % 10) ||| (if hours < 10 then 0#8 else 0x41#8)]

/-- FRAME_REF40 completes in every state and gives the caller the frame whose wire bits are the field table of
30_encoding.md R84; nothing of the block changes (log entry 11 is the model's choice of this as the row's operation, log entry
34 its constant bits). The latch FRAME is written by ENCODE alone, in its own row and in SEND_TIME: every other operation
that ends without a reset leaves it (10_state.md R23). -/
def Obligations.FrameRef40FollowsTheFieldTable : Prop :=
  (∀ (s : State) (mo mt ho : BitVec 7) (h6 h0 : Bool),
    ∃ f, exec (.frameRef40 mo mt ho h6 h0) s = .next { s with result := .frame f } ∧
      frameWire f = frameRef40Bits mo mt ho h6 h0) ∧
  ∀ (i : Instr) (s t : State), exec i s = .next t → t.past = s.past → t.frame ≠ s.frame →
    ∃ hours minutes, i = .encode hours minutes ∨ i = .sendTime hours minutes

/-! ### Frame to bits, bits to lines -/

/-- EXPAND completes in every state and writes SR alone: for a legal `frameBits` SR gets exactly that many bits, the bit of
location (k, i) stands at 8k + 7 - i, one later behind the framing bit 1 of a 41-bit profile
(43_line_transport.md R201, 20_memory.md R56, 30_encoding.md R86, R87). -/
def Obligations.ExpandOrdersTheFrameBits : Prop :=
  ∀ (s : State), ∃ t, exec .expand s = .next t ∧ t = { s with sr := t.sr, result := .done } ∧
    (s.cfg.profile.frameBits = 40 →
      t.sr.length = 40 ∧ ∀ l, inFrame l = true → t.sr[8 * l.byteIndex + (7 - l.bitIndex)]? = some (frameBit s.frame l)) ∧
    (s.cfg.profile.frameBits = 41 →
      t.sr.length = 41 ∧ t.sr[0]? = some true ∧
      ∀ l, inFrame l = true → t.sr[8 * l.byteIndex + (7 - l.bitIndex) + 1]? = some (frameBit s.frame l))

/-- The wire formats complete in every state and give the caller their bit sequence: 40 frame bits, the most significant first;
the framing bit 1 before them in W41; nothing of the block changes (30_encoding.md R86, R87; log entry 11 is the model's choice
of this as the rows' operation). The latch SR is written by EXPAND, in its own row, in TRANSMIT and in SEND_TIME, and by
SEND_RAW: every other operation that ends without a reset leaves it; and where `frameBits` is legal SR keeps exactly that many
bits (10_state.md R26). -/
def Obligations.WireFormatsGiveTheirBits : Prop :=
  (∀ (s : State) (bits : BitVec 40),
    (∃ sr, exec (.wireW40 bits) s = .next { s with result := .bits sr } ∧ sr.length = 40 ∧
      ∀ j, j < 40 → sr[j]? = some (bits.getLsbD (39 - j))) ∧
    (∃ sr, exec (.wireW41 bits) s = .next { s with result := .bits sr } ∧ sr.length = 41 ∧
      sr[0]? = some true ∧ ∀ j, j < 40 → sr[j + 1]? = some (bits.getLsbD (39 - j)))) ∧
  ∀ (i : Instr) (s t : State), exec i s = .next t →
    (t.past = s.past → t.sr ≠ s.sr → i = .expand ∨ (∃ f, i = .transmit f) ∨ (∃ symbols, i = .sendRaw symbols) ∨
      ∃ hours minutes, i = .sendTime hours minutes) ∧
    (frameBitsLegal s.cfg.profile = true → s.sr.length = s.cfg.profile.frameBits →
      t.sr.length = t.cfg.profile.frameBits)

/-- A transfer that nothing disturbs: SHIFTOUT from READY(Idle) completes with the trace `T(SR)`, which has `5n + 6` events,
`3n + 3` writes and `2n + 3` delays and the nominal duration `tAssert + n (tLow + tHigh) + tDataIdle + tFinal`, and is a
function of SR and the timing constants alone; everything else is unchanged (43_line_transport.md R211, R212). -/
def Obligations.ShiftoutCompletesWithTheClosedTrace : Prop :=
  ∀ (s : State), s.seq = .ready .idle → frameBitsLegal s.cfg.profile = true → s.undisturbed = true →
    let n := s.cfg.profile.frameBits
    let t := s.cfg.profile.timing
    exec .shiftout s = .next (s.afterTransfer s.shiftBits) ∧ s.shiftBits.length = n ∧
    (transferTrace t s.shiftBits).length = 5 * n + 6 ∧ writeCount (transferTrace t s.shiftBits) = 3 * n + 3 ∧
    (transferTrace t s.shiftBits).length - writeCount (transferTrace t s.shiftBits) = 2 * n + 3 ∧
    traceDuration (transferTrace t s.shiftBits) =
      seconds t.tAssert + n * (seconds t.tLow + seconds t.tHigh) + seconds t.tDataIdle + seconds t.tFinal

/-- TRANSMIT completes with the transfer of its frame's bits, those EXPAND makes of the frame: exactly `frameBits` of them, the
framing bit 1 first in a 41-bit profile; idle lines, status OK. It is no property of SEND_RAW, which on a 41-bit profile can send
a 0 there (43_line_transport.md R200, R201, R202, R205, R211, R212; that TRANSMIT loads SR from its operand and leaves the latch
FRAME alone is the model's reading, log entry 30). -/
def Obligations.FrameExpansionOfTransmit : Prop :=
  (∀ (s : State) (f : Frame), s.seq = .ready .idle → frameBitsLegal s.cfg.profile = true → s.undisturbed = true →
    let bits := expandBits s.cfg.profile.frameBits f
    exec (.transmit f) s = .next (State.afterTransfer { s with sr := bits } bits) ∧
      exec .expand { s with frame := f } = .next { s with frame := f, sr := bits, result := .done } ∧
      bits.length = s.cfg.profile.frameBits ∧ (s.cfg.profile.frameBits = 41 → bits.head? = some true)) ∧
  (∀ s : State, s.seq = .ready .idle → s.undisturbed = true → s.cfg.profile.frameBits = 41 →
    ∃ symbols bits, exec (.sendRaw symbols) s = .next (State.afterTransfer { s with sr := bits } bits) ∧
      bits.length = 41 ∧ bits.head? = some false)

/-- SEND_TIME completes: when ready, in range, undisturbed, it encodes, expands and transfers, ends with OK and idle lines, and
changes nothing else (45_driver_commands.md R261). -/
def Obligations.SendTimeTransfersTheFrame : Prop :=
  ∀ (s : State) (hours minutes : Int), s.seq = .ready .idle → frameBitsLegal s.cfg.profile = true → s.undisturbed = true →
    0 ≤ hours → hours ≤ 23 → 0 ≤ minutes → minutes ≤ 59 →
    ∃ t, exec .expand (s.encode hours minutes) = .next t ∧
      exec (.sendTime hours minutes) s = .next (t.afterTransfer t.sr) ∧
      t.frame = encodeFrame s.cfg.profile hours minutes

/-- SEND_RAW completes: when ready and undisturbed, a string of `frameBits` binary digits is sent as given, symbol n as bit n,
'1' as 1; FRAME and the digit latches are not touched (45_driver_commands.md R263, R266, R267; the byte values of the symbols
are log entry 19). -/
def Obligations.SendRawTransfersTheString : Prop :=
  ∀ (s : State) (symbols : List Byte), s.seq = .ready .idle → frameBitsLegal s.cfg.profile = true → s.undisturbed = true →
    symbols.length = s.cfg.profile.frameBits → (∀ b ∈ symbols, b = 0x30#8 ∨ b = 0x31#8) →
    let bits := symbols.map fun b => decide (b = 0x31#8)
    exec (.sendRaw symbols) s = .next (State.afterTransfer { s with sr := bits } bits)

/-- SEND_RAW can put any sequence of `frameBits` bits on the wire (45_driver_commands.md R266). -/
def Obligations.SendRawReachesEveryBitSequence : Prop :=
  ∀ (s : State) (bits : List Bool), s.seq = .ready .idle → frameBitsLegal s.cfg.profile = true → s.undisturbed = true →
    bits.length = s.cfg.profile.frameBits →
    ∃ symbols t, WellFormed (.sendRaw symbols) = true ∧ exec (.sendRaw symbols) s = .next t ∧
      t.trace = s.trace ++ transferTrace s.cfg.profile.timing bits ∧ t.frame = s.frame

/-- InvalidLength: SEND_RAW of a string of any other length than `frameBits`, bad symbols in it or not, records the length and
delivers code 2; nothing else changes (60_exceptions.md R303; that the length is checked before the characters is the spec's
decision D13, 45_driver_commands.md R264, 60_exceptions.md R311, log entry 20). -/
def Obligations.InvalidLengthChangesNothing : Prop :=
  statusCode .invalidLength = 2 ∧
  ∀ (s : State) (symbols : List Byte), s.seq = .ready .idle → symbols.length ≠ s.cfg.profile.frameBits →
    exec (.sendRaw symbols) s = .next (s.afterRejection (.invalidLength symbols.length) .invalidLength)

/-- InvalidCharacter: SEND_RAW of a string of the right length with a symbol that is neither '0' nor '1' records the position
and value of the first such symbol and delivers code 3; nothing else changes (60_exceptions.md R304; the byte values of the
symbols are log entry 19). -/
def Obligations.InvalidCharacterChangesNothing : Prop :=
  statusCode .invalidCharacter = 3 ∧
  ∀ (s : State) (good rest : List Byte) (bad : Byte), s.seq = .ready .idle →
    (∀ b ∈ good, b = 0x30#8 ∨ b = 0x31#8) → bad ≠ 0x30#8 → bad ≠ 0x31#8 →
    (good ++ bad :: rest).length = s.cfg.profile.frameBits →
    exec (.sendRaw (good ++ bad :: rest)) s =
      .next (s.afterRejection (.invalidCharacter good.length bad) .invalidCharacter)

/-- Every opcode byte other than 0x01 and 0x02 is a command of length 1: it decodes to one of the RESERVED rows, no operand byte
is taken, and when ready it ends at once with InvalidCommand, code 5, and nothing else changes: no line is written, FRAME and SR
are not touched (45_driver_commands.md R268, 60_exceptions.md R308; the byte encoding is the spec's decision D11, log entry 19). -/
def Obligations.ReservedOpcodeIsInvalidCommand : Prop :=
  statusCode .invalidCommand = 5 ∧
  ∀ (op : Byte) (rest : List Byte), op ≠ 0x01#8 → op ≠ 0x02#8 →
    ∃ i, decodeCommand (op :: rest) = .ok (i, rest) ∧ encodeCommand i = some [op] ∧
      ∀ s : State, s.seq = .ready .idle → exec i s = .next (s.afterRejection (.invalidCommand op) .invalidCommand)

/-- Each of the eight RESERVED rows completes with InvalidCommand for its opcode, whatever its low bits
(45_driver_commands.md R268, 30_encoding.md R99). -/
def Obligations.EachReservedRowCompletes : Prop :=
  ∀ (s : State), s.seq = .ready .idle →
    exec .reserved00 s = .next (s.afterRejection (.invalidCommand 0x00) .invalidCommand) ∧
    exec .reserved03 s = .next (s.afterRejection (.invalidCommand 0x03) .invalidCommand) ∧
    (∀ low, exec (.reserved04 low) s = .next (s.afterRejection (.invalidCommand (0b000001#6 ++ low)) .invalidCommand)) ∧
    (∀ low, exec (.reserved08 low) s = .next (s.afterRejection (.invalidCommand (0b00001#5 ++ low)) .invalidCommand)) ∧
    (∀ low, exec (.reserved10 low) s = .next (s.afterRejection (.invalidCommand (0b0001#4 ++ low)) .invalidCommand)) ∧
    (∀ low, exec (.reserved20 low) s = .next (s.afterRejection (.invalidCommand (0b001#3 ++ low)) .invalidCommand)) ∧
    (∀ low, exec (.reserved40 low) s = .next (s.afterRejection (.invalidCommand (0b01#2 ++ low)) .invalidCommand)) ∧
    (∀ low, exec (.reserved80 low) s = .next (s.afterRejection (.invalidCommand (0b1#1 ++ low)) .invalidCommand))

/-- The meaning of a command, run outside READY(Idle), changes nothing: no effect, no status, no queue. This is the model's choice
(log entry 9), in keeping with 45_driver_commands.md R262, which says that a command presented while `ready` is false is not
accepted; the bytes of such a command stay at the port, of which this statement says nothing. -/
def Obligations.CommandsAreNotTakenUnlessReady : Prop :=
  ∀ (s : State) (i : Instr), s.seq ≠ .ready .idle → (encodeCommand i).isSome = true → exec i s = .next s

/-- The composite operations, in every environment: when ready, TRANSMIT is EXPAND of its frame then SHIFTOUT, SEND_TIME is
ENCODE, EXPAND, SHIFTOUT, SEND_RAW of a valid string is SHIFTOUT of its bits (30_encoding.md R102). -/
def Obligations.CompositeOperationsEndInShiftout : Prop :=
  ∀ (s : State), s.seq = .ready .idle →
    (∀ f, exec (.transmit f) s = exec .shiftout { s with sr := expandBits s.cfg.profile.frameBits f }) ∧
    (∀ hours minutes, timeInRange hours minutes = true →
      exec (.sendTime hours minutes) s = exec .shiftout (s.encode hours minutes).expand ∧
      exec (.sendTime hours minutes) s
        = exec (.transmit (encodeFrame s.cfg.profile hours minutes)) (s.encode hours minutes)) ∧
    (∀ symbols : List Byte, symbols.length = s.cfg.profile.frameBits → (∀ b ∈ symbols, b = 0x30#8 ∨ b = 0x31#8) →
      exec (.sendRaw symbols) s = exec .shiftout { s with sr := symbols.map fun b => decide (b = 0x31#8) })

/-- Idempotence: under one profile the same frame, the same string or the same time gives one and the same trace in any two ready,
undisturbed states, whatever was sent before and whatever the line levels (43_line_transport.md R214; that the trace is `T(SR)` of
the bits sent is stated by FrameExpansionOfTransmit, SendTimeTransfersTheFrame and SendRawTransfersTheString). -/
def Obligations.SameCommandSameTrace : Prop :=
  ∀ (s s' : State) (i : Instr), s.seq = .ready .idle → s'.seq = .ready .idle → s.cfg.profile = s'.cfg.profile →
    frameBitsLegal s.cfg.profile = true → s.undisturbed = true → s'.undisturbed = true →
    ((∃ f, i = .transmit f) ∨ (∃ symbols, i = .sendRaw symbols) ∨ (∃ h m, i = .sendTime h m)) →
    ∃ t t' tr, exec i s = .next t ∧ exec i s' = .next t' ∧ t.trace = s.trace ++ tr ∧ t'.trace = s'.trace ++ tr

/-- The waveform of a transfer that starts from idle lines (43_line_transport.md R213): EN low from the start to `W(EN,1)`; CLK
high in Asserting, in each cell low for `tLow` then high, high in Deasserting; DATA high in Asserting, equal to the bit for the
whole of its cell, high from `W(DATA,1)` on. -/
def Obligations.TransferWaveform : Prop :=
  ∀ (t : Timing) (bits : List Bool), 0 ≤ seconds t.tAssert → 0 ≤ seconds t.tLow → 0 ≤ seconds t.tHigh →
    0 ≤ seconds t.tDataIdle →
    let level := waveform (fun _ => some true) (transferTrace t bits)
    let start := fun (i : Nat) => seconds t.tAssert + i * (seconds t.tLow + seconds t.tHigh)
    let cells := start bits.length
    ∀ time : ℝ, 0 ≤ time →
      (time < cells + seconds t.tDataIdle → level .en time = some false) ∧
      (cells + seconds t.tDataIdle ≤ time → level .en time = some true) ∧
      (time < seconds t.tAssert → level .data time = some true ∧ level .clk time = some true) ∧
      (∀ i b, bits[i]? = some b → start i ≤ time → time < start (i + 1) →
        level .data time = some b ∧
        (time < start i + seconds t.tLow → level .clk time = some false) ∧
        (start i + seconds t.tLow ≤ time → level .clk time = some true)) ∧
      (cells ≤ time → level .data time = some true ∧ level .clk time = some true)

/-- TransportFault: when the environment fails the k-th event of `T(SR)`, a write, after k harmless draws, and writes can fail,
that write changes no line, the rest of the transfer is abandoned, the trace is the prefix before it, the lines hold what the
successful writes left, the block is ready again and code 4 is delivered with the line and level of the failed write
(60_exceptions.md R305; the spec's decision D15). -/
def Obligations.TransportFaultAbandonsTheTransfer : Prop :=
  statusCode .transportFault = 4 ∧
  ∀ (s : State) (k : Nat) (id : Line) (v : Level), s.seq = .ready .idle → s.cfg.ioCanFail = true →
    (transferTrace s.cfg.profile.timing s.shiftBits)[k]? = some (.w id v) →
    (∀ j, j < k → s.env[j]? = some .pass) → s.env[k]? = some .fail →
    let sent := (transferTrace s.cfg.profile.timing s.shiftBits).take k
    ∃ t, exec .shiftout s = .next t ∧
      t = { s with lines := t.lines, trace := s.trace ++ sent, delivered := s.delivered ++ [.transportFault],
                   env := s.env.drop (k + 1), result := .raised (.transportFault id v), faulted := true } ∧
      ∀ j, t.lines.get j = (lastWrite j sent).getD (s.lines.get j)

/-- A reset that takes the place of the k-th event of a transfer cuts it short there: the run ends with the prefix of `T(SR)`, no
status for the command, and the block is at reset release (70_reset_and_hazards.md R344; the spec's decision D9). -/
def Obligations.ResetCutsTheTransferShort : Prop :=
  ∀ (s : State) (k : Nat), s.seq = .ready .idle → k < (transferTrace s.cfg.profile.timing s.shiftBits).length →
    (∀ j, j < k → s.env[j]? = some .pass) → s.env[k]? = some .reset →
    ∃ t, exec .shiftout s = .next t ∧ t.seq = .load ∧ t.trace = [] ∧ t.delivered = [] ∧ t.cfg = s.cfg ∧ t.port = s.port ∧
      t.env = s.env.drop (k + 1) ∧
      t.past = s.past ++ [{ trace := s.trace ++ (transferTrace s.cfg.profile.timing s.shiftBits).take k,
                            delivered := s.delivered }]

/-! ### Micro-operations and startup -/

/-- SETLINE and DELAY complete wherever lines may move, undisturbed: SETLINE puts its line at the level, leaves the other two, and
appends `W(id, v)`, also when the line has that level already; DELAY appends `D(t)`; nothing else changes
(43_line_transport.md R220, R221, 20_memory.md R60, R61). -/
def Obligations.MicroOperationsComplete : Prop :=
  ∀ (s : State), s.seq ≠ .load → s.seq ≠ .configFault → s.undisturbed = true →
    (∀ id v, ∃ t, exec (.setline id v) s = .next t ∧
      t = { s with lines := t.lines, trace := s.trace ++ [.w id v], env := s.env.drop 1, result := .done } ∧
      ∀ j, t.lines.get j = if j = id then v else s.lines.get j) ∧
    (∀ t, exec (.delay t) s = .next { s with trace := s.trace ++ [.d t], env := s.env.drop 1, result := .done })

/-- A SETLINE that the environment fails changes no line and enters no event, if writes can fail; if they cannot, the draw is
harmless. After it the block is ready, in startup it is in CONFIG_FAULT (43_line_transport.md R222, 60_exceptions.md R305, R307;
the case of a SETLINE on its own is log entry 14). -/
def Obligations.FailedWriteChangesNoLine : Prop :=
  ∀ (s : State) (id : Line) (v : Level), s.seq ≠ .load → s.seq ≠ .configFault → s.env.head? = some .fail →
    (s.cfg.ioCanFail = true → ∃ t, exec (.setline id v) s = .next t ∧
      t = { s with seq := t.seq, delivered := s.delivered ++ [.transportFault], env := s.env.tail,
                   result := .raised (.transportFault id v), faulted := true } ∧
      (∀ x, s.seq = .ready x → t.seq = .ready .idle) ∧ (∀ k, s.seq = .replay k → t.seq = .configFault)) ∧
    (s.cfg.ioCanFail = false → exec (.setline id v) s =
      .next { s with lines := s.lines.set id v, trace := s.trace ++ [.w id v], env := s.env.tail, result := .done })

/-- TRACE_EVENT completes as event k of the trace: a wait first if its delay is positive, none if it is zero or negative, then
DATA, CLK, EN in this order, all three; the sequencer goes to REPLAY(k+1); nothing else changes
(44_startup_replay.md R242, R243, 30_encoding.md R92; that the row applies its own fields when they are not those of record k is
the model's choice, log entry 35). -/
def Obligations.TraceEventWaitsThenWritesThreeLines : Prop :=
  ∀ (s : State) (k : Nat) (d c e : Level) (ticks : BitVec 29), s.seq = .replay k → k < s.traceLength → s.undisturbed = true →
    let dly := s.cfg.traceTick.times ticks.toInt
    seconds dly = ticks.toInt * seconds (s.cfg.traceTick.times 1) ∧
    ∃ wait : List Event, (0 < seconds dly → wait = [.d dly]) ∧ (seconds dly ≤ 0 → wait = []) ∧
      let events := wait ++ [.w .data d, .w .clk c, .w .en e]
      exec (.traceEvent d c e ticks) s =
        .next { s with lines := { data := d, clk := c, en := e }, seq := .replay (k + 1), trace := s.trace ++ events,
                       env := s.env.drop events.length, result := .done }

/-- REPLAY completes from REPLAY(0): all events in asset order, each once; it ends in REPLAY(N) with the lines as the last event
left them, or untouched when there is none; nothing else changes (44_startup_replay.md R240, R244). -/
def Obligations.ReplayAppliesEveryEvent : Prop :=
  ∀ (s : State), s.seq = .replay 0 → s.undisturbed = true →
    exec .replay s =
      .next { s with
        lines := match (traceEvents s.cfg).getLast? with
          | some e => { data := e.data, clk := e.clock, en := e.enable }
          | none => s.lines
        seq := .replay (traceEvents s.cfg).length
        trace := s.trace ++ replayTrace (traceEvents s.cfg)
        env := s.env.drop (replayTrace (traceEvents s.cfg)).length
        result := .done }

/-- IDLE_ASSERT completes in REPLAY(N): `W(DATA,1) W(CLK,1) W(EN,1)` whatever the last event left and whatever N is, no delay, then
READY(Idle) with status OK; nothing else changes (44_startup_replay.md R245). -/
def Obligations.IdleAssertEndsStartup : Prop :=
  ∀ (s : State), s.seq = .replay s.traceLength → s.undisturbed = true →
    exec .idleAssert s =
      .next { s with lines := { data := true, clk := true, en := true }, seq := .ready .idle,
                     delivered := s.delivered ++ [.ok], trace := s.trace ++ [.w .data true, .w .clk true, .w .en true],
                     env := s.env.drop 3, result := .done, faulted := false }

/-- A failed write in startup: whether REPLAY or IDLE_ASSERT is run whole, or the sequencer is stepped through them in
REPLAY(k), or one TRACE_EVENT is run, the write of `v` to line `id` that the environment fails changes no line, the rest of
startup is abandoned, the output is the prefix before it, the lines hold what the successful writes left, the sequencer is in
CONFIG_FAULT and TransportFault is delivered (60_exceptions.md R307; the spec's decision D15; a TRACE_EVENT whose fields are not
those of record k is log entry 35). -/
def Obligations.StartupFaultIsTerminal : Prop :=
  let faults := fun (events : List Event) (s : State) (answer : Answer) =>
    ∀ (k : Nat) (id : Line) (v : Level), events[k]? = some (.w id v) →
      (∀ j, j < k → s.env[j]? = some .pass) → s.env[k]? = some .fail →
      ∃ t, answer = .next t ∧
        t = { s with lines := t.lines, seq := .configFault, trace := s.trace ++ events.take k,
                     delivered := s.delivered ++ [.transportFault], env := s.env.drop (k + 1),
                     result := .raised (.transportFault id v), faulted := true } ∧
        ∀ j, t.lines.get j = (lastWrite j (events.take k)).getD (s.lines.get j)
  ∀ s : State, s.cfg.ioCanFail = true →
    (s.seq = .replay 0 → faults (replayTrace (traceEvents s.cfg)) s (exec .replay s)) ∧
    (s.seq = .replay s.traceLength → faults idleAssertTrace s (exec .idleAssert s) ∧ faults idleAssertTrace s (step s)) ∧
    (∀ n e, s.seq = .replay n → s.traceEvent n = some e → faults (eventTrace e) s (step s)) ∧
    (∀ n d c e ticks, s.seq = .replay n → n < s.traceLength →
      faults (eventTrace (recordEvent s.cfg.traceTick d c e ticks)) s (exec (.traceEvent d c e ticks) s))

/-- The eight status codes complete in every state: each is delivered to the caller and nothing else changes; their numbers are 0
to 7 (30_encoding.md R103, 00_scope.md R12; log entry 11 is the model's choice of this as the rows' operation). -/
def Obligations.StatusCodesAreDelivered : Prop :=
  ∀ (s : State),
    exec .statusOk s = .next { s with delivered := s.delivered ++ [.ok], result := .done } ∧
    exec .statusInvalidInput s = .next { s with delivered := s.delivered ++ [.invalidInput], result := .done } ∧
    exec .statusInvalidLength s = .next { s with delivered := s.delivered ++ [.invalidLength], result := .done } ∧
    exec .statusInvalidCharacter s = .next { s with delivered := s.delivered ++ [.invalidCharacter], result := .done } ∧
    exec .statusTransportFault s = .next { s with delivered := s.delivered ++ [.transportFault], result := .done } ∧
    exec .statusInvalidCommand s = .next { s with delivered := s.delivered ++ [.invalidCommand], result := .done } ∧
    exec .statusConfigurationError s = .next { s with delivered := s.delivered ++ [.configurationError], result := .done } ∧
    exec .statusInvalidDigit s = .next { s with delivered := s.delivered ++ [.invalidDigit], result := .done } ∧
    [Status.ok, .invalidInput, .invalidLength, .invalidCharacter, .transportFault, .invalidCommand, .configurationError,
      .invalidDigit].map statusCode = [0, 1, 2, 3, 4, 5, 6, 7]

/-- Operations of the sequencer asked for in a phase in which it does not start them leave the state as it is. The model's choice
(log entry 10); the spec says only that no such transition exists (10_state.md R25, 43_line_transport.md R200,
44_startup_replay.md R244, 60_exceptions.md R306). -/
def Obligations.OutOfPhaseOperationsChangeNothing : Prop :=
  ∀ (s : State),
    (s.seq ≠ .ready .idle → exec .shiftout s = .next s ∧ ∀ f, exec (.transmit f) s = .next s) ∧
    (s.seq ≠ .replay 0 → exec .replay s = .next s) ∧
    ((∀ k, s.seq = .replay k → k < s.traceLength) → exec .idleAssert s = .next s) ∧
    ((∀ k, s.seq = .replay k → s.traceLength ≤ k) → ∀ d c e t, exec (.traceEvent d c e t) s = .next s) ∧
    (s.seq = .load ∨ s.seq = .configFault →
      (∀ id v, exec (.setline id v) s = .next s) ∧ ∀ t, exec (.delay t) s = .next s)

/-! ### The whole machine -/

/-- No operation, in any state, ends in a fault or a refusal, and no step does (60_exceptions.md R312, R313). -/
def Obligations.EveryOperationAnswersANextState : Prop :=
  (∀ (i : Instr) (s : State), ∃ t, exec i s = .next t) ∧ ∀ s : State, ∃ t, step s = .next t

/-- The configuration is never changed, by any operation or step (10_state.md R20, 20_memory.md R69). -/
def Obligations.ConfigurationNeverChanges : Prop :=
  (∀ (i : Instr) (s t : State), exec i s = .next t → t.cfg = s.cfg) ∧
  ∀ s t : State, step s = .next t → t.cfg = s.cfg

/-- What has been put out is never taken back: an operation or step extends the trace and the status codes of the run, or a reset
ends the run and keeps both, extended, on record (20_memory.md R64; `past` is the model's record, log entry 7). -/
def Obligations.OutputIsNeverTakenBack : Prop :=
  let grows := fun (s t : State) =>
    (t.past = s.past ∧ s.trace <+: t.trace ∧ s.delivered <+: t.delivered) ∨
    (∃ r, t.past = s.past ++ [r] ∧ s.trace <+: r.trace ∧ s.delivered <+: r.delivered ∧ t.seq = .load ∧ t.trace = [])
  (∀ (i : Instr) (s t : State), exec i s = .next t → grows s t) ∧ ∀ s t : State, step s = .next t → grows s t

/-- No operation of the block depends on the current line levels: two states that differ in them alone give next states that differ
in them alone (10_state.md R21). -/
def Obligations.LineLevelsAreNeverRead : Prop :=
  ∀ (s : State) (l : Lines),
    (∀ i : Instr, ∃ t t', exec i s = .next t ∧ exec i { s with lines := l } = .next t' ∧ t' = { t with lines := t'.lines }) ∧
    ∃ t t', step s = .next t ∧ step { s with lines := l } = .next t' ∧ t' = { t with lines := t'.lines }

/-- CONFIG_FAULT is terminal: no operation and no step but a reset leaves it, writes a line or adds to the trace
(60_exceptions.md R306, 10_state.md R25). -/
def Obligations.ConfigFaultIsLeftByResetOnly : Prop :=
  ∀ (s : State), s.seq = .configFault →
    (∀ (i : Instr) (t : State), exec i s = .next t → t.seq = .configFault ∧ t.lines = s.lines ∧ t.trace = s.trace) ∧
    (s.env.head? ≠ some .reset → step s = .next { s with env := s.env.tail })

/-- A reset state of any configuration meets the four invariants below (10_state.md R45). -/
def Obligations.ResetMeetsTheInvariants : Prop :=
  (∀ cfg past port env, let s := State.atReset cfg past port env
    SequencerSound s ∧ IdleHigh s ∧ OutputSound s ∧ LinesFollowTrace s) ∧
  (SequencerSound State.reset ∧ IdleHigh State.reset ∧ OutputSound State.reset ∧ LinesFollowTrace State.reset) ∧
  State.reset.seq = .load ∧ State.reset.ready = false ∧ State.reset.status = none

/-- Every step keeps the sequencer in step with its configuration (10_state.md R24, R26, R40). -/
def Obligations.StepKeepsSequencerSound : Prop :=
  ∀ s t : State, SequencerSound s → step s = .next t → SequencerSound t

/-- The idle invariant: every step keeps "in READY(Idle) all three lines are high, unless a TransportFault has occurred since the
last completed transfer or startup" (43_line_transport.md R230, 10_state.md R21). -/
def Obligations.StepKeepsIdleHigh : Prop :=
  ∀ s t : State, IdleHigh s → step s = .next t → IdleHigh t

/-- Every step keeps the output in step with the phase (70_reset_and_hazards.md R342, 44_startup_replay.md R244,
60_exceptions.md R306, R307, 45_driver_commands.md R271). -/
def Obligations.StepKeepsOutputSound : Prop :=
  ∀ s t : State, OutputSound s → step s = .next t → OutputSound t

/-- Every step keeps each line at the level the trace last wrote to it (10_state.md R21, 00_scope.md R15). -/
def Obligations.StepKeepsLinesFollowTrace : Prop :=
  ∀ s t : State, LinesFollowTrace s → step s = .next t → LinesFollowTrace t

/-- The sequencer makes only the moves of 10_state.md R25, each only when that table says so (with 60_exceptions.md R307 for
startup), and each with the output and the status that go with it. A command at the port, which is one step (log entry 8), is
rejected by its check with nothing put out, or puts out the whole transfer of its bits with status OK. A transfer, inside a command
or stepped, and startup are left early only at a line write the environment failed, or by a reset; at a failed write what stood
before it went out and TransportFault is delivered (45_driver_commands.md R269, 60_exceptions.md R305, 70_reset_and_hazards.md R344). -/
def Obligations.SequencerMovesLegally : Prop :=
  ∀ s t : State, SequencerSound s → step s = .next t →
    LegalMove s t

/-- SHIFTOUT as one operation is the run of the sequencer through its transfer states: in every environment, stepping from
READY(Asserting) reaches, in at most `frameBits` + 2 steps, exactly what SHIFTOUT answers
(43_line_transport.md R205, 10_state.md R25). -/
def Obligations.ShiftoutIsTheTransferStepByStep : Prop :=
  ∀ s : State, s.seq = .ready .idle →
    ∃ m, 0 < m ∧ m ≤ s.cfg.profile.frameBits + 2 ∧
      Host.Core.run Sys2Proof.core m { s with seq := .ready .asserting } = exec .shiftout s

/-- The startup sequence: from LOAD with a configuration that passes, undisturbed, N + 2 steps replay the trace and assert idle: the
output is REPLAY's trace then `W(DATA,1) W(CLK,1) W(EN,1)`, status OK, READY(Idle), all lines high; nothing else changes
(70_reset_and_hazards.md R342, R343). -/
def Obligations.StartupReachesReady : Prop :=
  ∀ s : State, s.seq = .load → setupOk s.cfg = true → s.undisturbed = true →
    let events := replayTrace (traceEvents s.cfg) ++ [.w .data true, .w .clk true, .w .en true]
    Host.Core.run Sys2Proof.core (s.traceLength + 2) s =
      .next { s with lines := { data := true, clk := true, en := true }, seq := .ready .idle,
                     delivered := s.delivered ++ [.ok], trace := s.trace ++ events, env := s.env.drop events.length,
                     result := .done, faulted := false }
end

