-- ==== Sys2Proof/Laws/Durations.lean ====
section
/-! SUPPORT. A duration as data and its seconds: the machine's comparison with zero is the comparison of real numbers, a tick
counts, and no real number is left out. -/

namespace Sys2Proof.Machine

theorem unitSeconds_pos (unit : Nat) : 0 < unitSeconds unit := by
  unfold unitSeconds
  split
  · exact one_pos
  · exact (Config.unitSeconds unit).property

/-- The machine's test of a delay is the spec's comparison with zero (44_startup_replay.md R242). -/
theorem positive_iff (t : Duration) : t.positive = true ↔ 0 < seconds t := by
  simp [Duration.positive, seconds, mul_pos_iff_of_pos_right (unitSeconds_pos t.unit)]

/-- The check of a timing constant is the spec's (10_state.md R40 (g)). -/
theorem nonNegative_iff (t : Duration) : t.nonNegative = true ↔ 0 ≤ seconds t := by
  simp [Duration.nonNegative, seconds, mul_nonneg_iff_of_pos_right (unitSeconds_pos t.unit)]

/-- `n` ticks are `n` times one tick (30_encoding.md R92). -/
theorem seconds_times (t : Tick) (n : Int) : seconds (t.times n) = n * seconds (t.times 1) := by
  simp [seconds, Tick.times, mul_assoc]

/-- A tick is not negative (00_scope.md R11). -/
theorem seconds_tick_nonneg (t : Tick) : 0 ≤ seconds (t.times 1) := by
  rw [← nonNegative_iff]; simpa [Duration.nonNegative, Tick.times] using t.count.property

/-- A whole or fractional number of seconds. -/
theorem seconds_of_unit_zero (q : Rat) : seconds ⟨q, 0⟩ = q := by simp [seconds, unitSeconds]

/-- Every real number is the seconds of a duration, for the unit that is its size. -/
theorem seconds_reaches (x : ℝ) (unit : Nat) (hu : unit ≠ 0) (h : x = 0 ∨ (Config.unitSeconds unit).val = |x|) :
    ∃ t : Duration, seconds t = x := by
  rcases h with rfl | h
  · exact ⟨⟨0, 0⟩, by simp [seconds]⟩
  · rcases le_total 0 x with hx | hx
    · exact ⟨⟨1, unit⟩, by simp [seconds, unitSeconds, hu, h, abs_of_nonneg hx]⟩
    · exact ⟨⟨-1, unit⟩, by simp [seconds, unitSeconds, hu, h, abs_of_nonpos hx]⟩

end Sys2Proof.Machine
end

