-- ==== Sys2Proof/Laws/State.lean ====
section
/-! SUPPORT. One lemma for each field and each update of State, so that no later proof unfolds a record update. -/

namespace Sys2Proof.Machine

/-! ### write -/

@[simp] theorem State.write_cfg (s : State) (id : Line) (v : Level) : (s.write id v).cfg = s.cfg := rfl
@[simp] theorem State.write_seq (s : State) (id : Line) (v : Level) : (s.write id v).seq = s.seq := rfl
@[simp] theorem State.write_lines (s : State) (id : Line) (v : Level) : (s.write id v).lines = s.lines.set id v := rfl
@[simp] theorem State.write_frame (s : State) (id : Line) (v : Level) : (s.write id v).frame = s.frame := rfl
@[simp] theorem State.write_sr (s : State) (id : Line) (v : Level) : (s.write id v).sr = s.sr := rfl
@[simp] theorem State.write_ht (s : State) (id : Line) (v : Level) : (s.write id v).ht = s.ht := rfl
@[simp] theorem State.write_ho (s : State) (id : Line) (v : Level) : (s.write id v).ho = s.ho := rfl
@[simp] theorem State.write_mt (s : State) (id : Line) (v : Level) : (s.write id v).mt = s.mt := rfl
@[simp] theorem State.write_mo (s : State) (id : Line) (v : Level) : (s.write id v).mo = s.mo := rfl
@[simp] theorem State.write_delivered (s : State) (id : Line) (v : Level) : (s.write id v).delivered = s.delivered := rfl
@[simp] theorem State.write_trace (s : State) (id : Line) (v : Level) : (s.write id v).trace = s.trace ++ [.w id v] := rfl
@[simp] theorem State.write_port (s : State) (id : Line) (v : Level) : (s.write id v).port = s.port := rfl
@[simp] theorem State.write_env (s : State) (id : Line) (v : Level) : (s.write id v).env = s.env := rfl
@[simp] theorem State.write_result (s : State) (id : Line) (v : Level) : (s.write id v).result = s.result := rfl
@[simp] theorem State.write_faulted (s : State) (id : Line) (v : Level) : (s.write id v).faulted = s.faulted := rfl
@[simp] theorem State.write_past (s : State) (id : Line) (v : Level) : (s.write id v).past = s.past := rfl

/-! ### wait -/

@[simp] theorem State.wait_cfg (s : State) (t : Duration) : (s.wait t).cfg = s.cfg := rfl
@[simp] theorem State.wait_seq (s : State) (t : Duration) : (s.wait t).seq = s.seq := rfl
@[simp] theorem State.wait_lines (s : State) (t : Duration) : (s.wait t).lines = s.lines := rfl
@[simp] theorem State.wait_frame (s : State) (t : Duration) : (s.wait t).frame = s.frame := rfl
@[simp] theorem State.wait_sr (s : State) (t : Duration) : (s.wait t).sr = s.sr := rfl
@[simp] theorem State.wait_ht (s : State) (t : Duration) : (s.wait t).ht = s.ht := rfl
@[simp] theorem State.wait_ho (s : State) (t : Duration) : (s.wait t).ho = s.ho := rfl
@[simp] theorem State.wait_mt (s : State) (t : Duration) : (s.wait t).mt = s.mt := rfl
@[simp] theorem State.wait_mo (s : State) (t : Duration) : (s.wait t).mo = s.mo := rfl
@[simp] theorem State.wait_delivered (s : State) (t : Duration) : (s.wait t).delivered = s.delivered := rfl
@[simp] theorem State.wait_trace (s : State) (t : Duration) : (s.wait t).trace = s.trace ++ [.d t] := rfl
@[simp] theorem State.wait_port (s : State) (t : Duration) : (s.wait t).port = s.port := rfl
@[simp] theorem State.wait_env (s : State) (t : Duration) : (s.wait t).env = s.env := rfl
@[simp] theorem State.wait_result (s : State) (t : Duration) : (s.wait t).result = s.result := rfl
@[simp] theorem State.wait_faulted (s : State) (t : Duration) : (s.wait t).faulted = s.faulted := rfl
@[simp] theorem State.wait_past (s : State) (t : Duration) : (s.wait t).past = s.past := rfl

/-! ### goto -/

@[simp] theorem State.goto_cfg (s : State) (q : Seq) : (s.goto q).cfg = s.cfg := rfl
@[simp] theorem State.goto_seq (s : State) (q : Seq) : (s.goto q).seq = q := rfl
@[simp] theorem State.goto_lines (s : State) (q : Seq) : (s.goto q).lines = s.lines := rfl
@[simp] theorem State.goto_frame (s : State) (q : Seq) : (s.goto q).frame = s.frame := rfl
@[simp] theorem State.goto_sr (s : State) (q : Seq) : (s.goto q).sr = s.sr := rfl
@[simp] theorem State.goto_ht (s : State) (q : Seq) : (s.goto q).ht = s.ht := rfl
@[simp] theorem State.goto_ho (s : State) (q : Seq) : (s.goto q).ho = s.ho := rfl
@[simp] theorem State.goto_mt (s : State) (q : Seq) : (s.goto q).mt = s.mt := rfl
@[simp] theorem State.goto_mo (s : State) (q : Seq) : (s.goto q).mo = s.mo := rfl
@[simp] theorem State.goto_delivered (s : State) (q : Seq) : (s.goto q).delivered = s.delivered := rfl
@[simp] theorem State.goto_trace (s : State) (q : Seq) : (s.goto q).trace = s.trace := rfl
@[simp] theorem State.goto_port (s : State) (q : Seq) : (s.goto q).port = s.port := rfl
@[simp] theorem State.goto_env (s : State) (q : Seq) : (s.goto q).env = s.env := rfl
@[simp] theorem State.goto_result (s : State) (q : Seq) : (s.goto q).result = s.result := rfl
@[simp] theorem State.goto_faulted (s : State) (q : Seq) : (s.goto q).faulted = s.faulted := rfl
@[simp] theorem State.goto_past (s : State) (q : Seq) : (s.goto q).past = s.past := rfl

/-! ### deliver -/

@[simp] theorem State.deliver_cfg (s : State) (c : Status) : (s.deliver c).cfg = s.cfg := rfl
@[simp] theorem State.deliver_seq (s : State) (c : Status) : (s.deliver c).seq = s.seq := rfl
@[simp] theorem State.deliver_lines (s : State) (c : Status) : (s.deliver c).lines = s.lines := rfl
@[simp] theorem State.deliver_frame (s : State) (c : Status) : (s.deliver c).frame = s.frame := rfl
@[simp] theorem State.deliver_sr (s : State) (c : Status) : (s.deliver c).sr = s.sr := rfl
@[simp] theorem State.deliver_ht (s : State) (c : Status) : (s.deliver c).ht = s.ht := rfl
@[simp] theorem State.deliver_ho (s : State) (c : Status) : (s.deliver c).ho = s.ho := rfl
@[simp] theorem State.deliver_mt (s : State) (c : Status) : (s.deliver c).mt = s.mt := rfl
@[simp] theorem State.deliver_mo (s : State) (c : Status) : (s.deliver c).mo = s.mo := rfl
@[simp] theorem State.deliver_delivered (s : State) (c : Status) : (s.deliver c).delivered = s.delivered ++ [c] := rfl
@[simp] theorem State.deliver_trace (s : State) (c : Status) : (s.deliver c).trace = s.trace := rfl
@[simp] theorem State.deliver_port (s : State) (c : Status) : (s.deliver c).port = s.port := rfl
@[simp] theorem State.deliver_env (s : State) (c : Status) : (s.deliver c).env = s.env := rfl
@[simp] theorem State.deliver_result (s : State) (c : Status) : (s.deliver c).result = s.result := rfl
@[simp] theorem State.deliver_faulted (s : State) (c : Status) : (s.deliver c).faulted = s.faulted := rfl
@[simp] theorem State.deliver_past (s : State) (c : Status) : (s.deliver c).past = s.past := rfl

/-! ### returns -/

@[simp] theorem State.returns_cfg (s : State) (r : Result) : (s.returns r).cfg = s.cfg := rfl
@[simp] theorem State.returns_seq (s : State) (r : Result) : (s.returns r).seq = s.seq := rfl
@[simp] theorem State.returns_lines (s : State) (r : Result) : (s.returns r).lines = s.lines := rfl
@[simp] theorem State.returns_frame (s : State) (r : Result) : (s.returns r).frame = s.frame := rfl
@[simp] theorem State.returns_sr (s : State) (r : Result) : (s.returns r).sr = s.sr := rfl
@[simp] theorem State.returns_ht (s : State) (r : Result) : (s.returns r).ht = s.ht := rfl
@[simp] theorem State.returns_ho (s : State) (r : Result) : (s.returns r).ho = s.ho := rfl
@[simp] theorem State.returns_mt (s : State) (r : Result) : (s.returns r).mt = s.mt := rfl
@[simp] theorem State.returns_mo (s : State) (r : Result) : (s.returns r).mo = s.mo := rfl
@[simp] theorem State.returns_delivered (s : State) (r : Result) : (s.returns r).delivered = s.delivered := rfl
@[simp] theorem State.returns_trace (s : State) (r : Result) : (s.returns r).trace = s.trace := rfl
@[simp] theorem State.returns_port (s : State) (r : Result) : (s.returns r).port = s.port := rfl
@[simp] theorem State.returns_env (s : State) (r : Result) : (s.returns r).env = s.env := rfl
@[simp] theorem State.returns_result (s : State) (r : Result) : (s.returns r).result = r := rfl
@[simp] theorem State.returns_faulted (s : State) (r : Result) : (s.returns r).faulted = s.faulted := rfl
@[simp] theorem State.returns_past (s : State) (r : Result) : (s.returns r).past = s.past := rfl

/-! ### complete -/

@[simp] theorem State.complete_cfg (s : State) : s.complete.cfg = s.cfg := rfl
@[simp] theorem State.complete_seq (s : State) : s.complete.seq = .ready .idle := rfl
@[simp] theorem State.complete_lines (s : State) : s.complete.lines = s.lines := rfl
@[simp] theorem State.complete_frame (s : State) : s.complete.frame = s.frame := rfl
@[simp] theorem State.complete_sr (s : State) : s.complete.sr = s.sr := rfl
@[simp] theorem State.complete_ht (s : State) : s.complete.ht = s.ht := rfl
@[simp] theorem State.complete_ho (s : State) : s.complete.ho = s.ho := rfl
@[simp] theorem State.complete_mt (s : State) : s.complete.mt = s.mt := rfl
@[simp] theorem State.complete_mo (s : State) : s.complete.mo = s.mo := rfl
@[simp] theorem State.complete_delivered (s : State) : s.complete.delivered = s.delivered ++ [.ok] := rfl
@[simp] theorem State.complete_trace (s : State) : s.complete.trace = s.trace := rfl
@[simp] theorem State.complete_port (s : State) : s.complete.port = s.port := rfl
@[simp] theorem State.complete_env (s : State) : s.complete.env = s.env := rfl
@[simp] theorem State.complete_result (s : State) : s.complete.result = s.result := rfl
@[simp] theorem State.complete_faulted (s : State) : s.complete.faulted = false := rfl
@[simp] theorem State.complete_past (s : State) : s.complete.past = s.past := rfl

/-! ### idleWait -/

@[simp] theorem State.idleWait_cfg (s : State) : s.idleWait.cfg = s.cfg := rfl
@[simp] theorem State.idleWait_seq (s : State) : s.idleWait.seq = s.seq := rfl
@[simp] theorem State.idleWait_lines (s : State) : s.idleWait.lines = s.lines := rfl
@[simp] theorem State.idleWait_frame (s : State) : s.idleWait.frame = s.frame := rfl
@[simp] theorem State.idleWait_sr (s : State) : s.idleWait.sr = s.sr := rfl
@[simp] theorem State.idleWait_ht (s : State) : s.idleWait.ht = s.ht := rfl
@[simp] theorem State.idleWait_ho (s : State) : s.idleWait.ho = s.ho := rfl
@[simp] theorem State.idleWait_mt (s : State) : s.idleWait.mt = s.mt := rfl
@[simp] theorem State.idleWait_mo (s : State) : s.idleWait.mo = s.mo := rfl
@[simp] theorem State.idleWait_delivered (s : State) : s.idleWait.delivered = s.delivered := rfl
@[simp] theorem State.idleWait_trace (s : State) : s.idleWait.trace = s.trace := rfl
@[simp] theorem State.idleWait_port (s : State) : s.idleWait.port = s.port := rfl
@[simp] theorem State.idleWait_env (s : State) : s.idleWait.env = s.env.tail := rfl
@[simp] theorem State.idleWait_result (s : State) : s.idleWait.result = s.result := rfl
@[simp] theorem State.idleWait_faulted (s : State) : s.idleWait.faulted = s.faulted := rfl
@[simp] theorem State.idleWait_past (s : State) : s.idleWait.past = s.past := rfl

/-! ### encode -/

@[simp] theorem State.encode_cfg (s : State) (h m : Int) : (s.encode h m).cfg = s.cfg := rfl
@[simp] theorem State.encode_seq (s : State) (h m : Int) : (s.encode h m).seq = s.seq := rfl
@[simp] theorem State.encode_lines (s : State) (h m : Int) : (s.encode h m).lines = s.lines := rfl
@[simp] theorem State.encode_frame (s : State) (h m : Int) : (s.encode h m).frame = encodeFrame s.cfg.profile h m := rfl
@[simp] theorem State.encode_sr (s : State) (h m : Int) : (s.encode h m).sr = s.sr := rfl
@[simp] theorem State.encode_ht (s : State) (h m : Int) : (s.encode h m).ht = hourTensOf h := rfl
@[simp] theorem State.encode_ho (s : State) (h m : Int) : (s.encode h m).ho = hourOnesOf h := rfl
@[simp] theorem State.encode_mt (s : State) (h m : Int) : (s.encode h m).mt = minuteTensOf m := rfl
@[simp] theorem State.encode_mo (s : State) (h m : Int) : (s.encode h m).mo = minuteOnesOf m := rfl
@[simp] theorem State.encode_delivered (s : State) (h m : Int) : (s.encode h m).delivered = s.delivered := rfl
@[simp] theorem State.encode_trace (s : State) (h m : Int) : (s.encode h m).trace = s.trace := rfl
@[simp] theorem State.encode_port (s : State) (h m : Int) : (s.encode h m).port = s.port := rfl
@[simp] theorem State.encode_env (s : State) (h m : Int) : (s.encode h m).env = s.env := rfl
@[simp] theorem State.encode_result (s : State) (h m : Int) : (s.encode h m).result = s.result := rfl
@[simp] theorem State.encode_faulted (s : State) (h m : Int) : (s.encode h m).faulted = s.faulted := rfl
@[simp] theorem State.encode_past (s : State) (h m : Int) : (s.encode h m).past = s.past := rfl

/-! ### expand -/

@[simp] theorem State.expand_cfg (s : State) : s.expand.cfg = s.cfg := rfl
@[simp] theorem State.expand_seq (s : State) : s.expand.seq = s.seq := rfl
@[simp] theorem State.expand_lines (s : State) : s.expand.lines = s.lines := rfl
@[simp] theorem State.expand_frame (s : State) : s.expand.frame = s.frame := rfl
@[simp] theorem State.expand_sr (s : State) : s.expand.sr = expandBits s.cfg.profile.frameBits s.frame := rfl
@[simp] theorem State.expand_ht (s : State) : s.expand.ht = s.ht := rfl
@[simp] theorem State.expand_ho (s : State) : s.expand.ho = s.ho := rfl
@[simp] theorem State.expand_mt (s : State) : s.expand.mt = s.mt := rfl
@[simp] theorem State.expand_mo (s : State) : s.expand.mo = s.mo := rfl
@[simp] theorem State.expand_delivered (s : State) : s.expand.delivered = s.delivered := rfl
@[simp] theorem State.expand_trace (s : State) : s.expand.trace = s.trace := rfl
@[simp] theorem State.expand_port (s : State) : s.expand.port = s.port := rfl
@[simp] theorem State.expand_env (s : State) : s.expand.env = s.env := rfl
@[simp] theorem State.expand_result (s : State) : s.expand.result = s.result := rfl
@[simp] theorem State.expand_faulted (s : State) : s.expand.faulted = s.faulted := rfl
@[simp] theorem State.expand_past (s : State) : s.expand.past = s.past := rfl

/-! ### applyReset -/

@[simp] theorem State.applyReset_cfg (s : State) : s.applyReset.cfg = s.cfg := rfl
@[simp] theorem State.applyReset_seq (s : State) : s.applyReset.seq = .load := rfl
@[simp] theorem State.applyReset_lines (s : State) : s.applyReset.lines = unspecifiedLines (s.past.length + 1) := by simp [State.applyReset, State.atReset]
@[simp] theorem State.applyReset_frame (s : State) : s.applyReset.frame = Config.frameAtReset (s.past.length + 1) := by simp [State.applyReset, State.atReset]
@[simp] theorem State.applyReset_sr (s : State) : s.applyReset.sr = unspecifiedSr (s.past.length + 1) s.cfg.profile.frameBits := by simp [State.applyReset, State.atReset]
@[simp] theorem State.applyReset_ht (s : State) : s.applyReset.ht = Config.htAtReset (s.past.length + 1) := by simp [State.applyReset, State.atReset]
@[simp] theorem State.applyReset_ho (s : State) : s.applyReset.ho = Config.hoAtReset (s.past.length + 1) := by simp [State.applyReset, State.atReset]
@[simp] theorem State.applyReset_mt (s : State) : s.applyReset.mt = Config.mtAtReset (s.past.length + 1) := by simp [State.applyReset, State.atReset]
@[simp] theorem State.applyReset_mo (s : State) : s.applyReset.mo = Config.moAtReset (s.past.length + 1) := by simp [State.applyReset, State.atReset]
@[simp] theorem State.applyReset_delivered (s : State) : s.applyReset.delivered = [] := rfl
@[simp] theorem State.applyReset_trace (s : State) : s.applyReset.trace = [] := rfl
@[simp] theorem State.applyReset_port (s : State) : s.applyReset.port = s.port := rfl
@[simp] theorem State.applyReset_env (s : State) : s.applyReset.env = s.env := rfl
@[simp] theorem State.applyReset_result (s : State) : s.applyReset.result = .nothing := rfl
@[simp] theorem State.applyReset_faulted (s : State) : s.applyReset.faulted = false := rfl
@[simp] theorem State.applyReset_past (s : State) : s.applyReset.past = s.past ++ [{ trace := s.trace, delivered := s.delivered }] := rfl

/-! ### Lines -/

@[simp] theorem Lines.get_set_self (l : Lines) (id : Line) (v : Level) : (l.set id v).get id = v := by cases id <;> rfl

theorem Lines.get_set_other (l : Lines) (id j : Line) (v : Level) (h : j ≠ id) : (l.set id v).get j = l.get j := by
  cases id <;> cases j <;> first | rfl | exact absurd rfl h

/-! ### What a function of the state reads -/

@[simp] theorem State.ready_iff (s : State) : s.ready = true ↔ s.seq = .ready .idle := by simp [State.ready]

end Sys2Proof.Machine
end

