-- ==== Sys2Proof/Laws/Ops.lean ====
section
/-! SUPPORT. For each shared operation, once, everything it can do: what a sequence of micro-operations leaves, with and
without a disturbance, what raising a condition leaves, and how an operation concludes. -/

namespace Sys2Proof.Machine

/-! ### Undisturbed effects -/

/-- The effect of micro-operations that nothing disturbs. -/
def performAll (ops : List MicroOp) (s : State) : State := ops.foldl (fun t op => op.perform t) s

/-- The state with `n` of the environment's draws used up. -/
def State.afterDraws (s : State) (n : Nat) : State := { s with env := s.env.drop n }

@[simp] theorem performAll_nil (s : State) : performAll [] s = s := rfl

@[simp] theorem performAll_cons (op : MicroOp) (ops : List MicroOp) (s : State) :
    performAll (op :: ops) s = performAll ops (op.perform s) := rfl

theorem performAll_append (xs ys : List MicroOp) (s : State) :
    performAll (xs ++ ys) s = performAll ys (performAll xs s) := by simp [performAll]

@[simp] theorem opsTrace_nil : opsTrace [] = [] := rfl

@[simp] theorem opsTrace_cons (op : MicroOp) (ops : List MicroOp) :
    opsTrace (op :: ops) = opTrace op ++ opsTrace ops := by simp [opsTrace]

@[simp] theorem opsTrace_append (xs ys : List MicroOp) : opsTrace (xs ++ ys) = opsTrace xs ++ opsTrace ys := by
  simp [opsTrace]

theorem drawsUsed_cons (op : MicroOp) (ops : List MicroOp) :
    drawsUsed (op :: ops) = (opTrace op).length + drawsUsed ops := by simp [drawsUsed]

/-- A micro-operation extends the trace by its events and leaves the latches, the configuration and the inputs alone. -/
theorem perform_keeps (op : MicroOp) (s : State) :
    let t := op.perform s
    t.cfg = s.cfg ∧ t.frame = s.frame ∧ t.sr = s.sr ∧ t.ht = s.ht ∧ t.ho = s.ho ∧ t.mt = s.mt ∧ t.mo = s.mo ∧
      t.port = s.port ∧ t.env = s.env ∧ t.result = s.result ∧ t.past = s.past ∧ t.trace = s.trace ++ opTrace op := by
  cases op <;> simp [MicroOp.perform, opTrace]

/-- The same of a sequence. -/
theorem performAll_keeps (ops : List MicroOp) (s : State) :
    let t := performAll ops s
    t.cfg = s.cfg ∧ t.frame = s.frame ∧ t.sr = s.sr ∧ t.ht = s.ht ∧ t.ho = s.ho ∧ t.mt = s.mt ∧ t.mo = s.mo ∧
      t.port = s.port ∧ t.env = s.env ∧ t.result = s.result ∧ t.past = s.past ∧ t.trace = s.trace ++ opsTrace ops := by
  induction ops generalizing s with
  | nil => simp
  | cons op ops ih =>
    have h := perform_keeps op s
    have h' := ih (op.perform s)
    simp only [performAll_cons, opsTrace_cons] at h h' ⊢
    simp_all

/-! ### Running micro-operations -/

theorem perform_afterDraws (op : MicroOp) (s : State) (n : Nat) :
    op.perform (s.afterDraws n) = (op.perform s).afterDraws n := by cases op <;> rfl

/-- One micro-operation either goes through, using up its draw, or meets a failing draw that counts, or a reset. -/
theorem attempt_cases (op : MicroOp) (s : State) :
    attempt op s = .go (op.perform (s.afterDraws (opTrace op).length)) ∨
    (∃ id v, op = .setline id v ∧ s.env.head? = some .fail ∧ s.cfg.ioCanFail = true ∧
      attempt op s = .stop (s.afterDraws 1) (.writeFailed id v)) ∨
    (opTrace op ≠ [] ∧ s.env.head? = some .reset ∧ attempt op s = .stop (s.afterDraws 1) .reset) := by
  rcases s with ⟨cfg, seq, lines, frame, sr, ht, ho, mt, mo, delivered, trace, port, env, result, faulted, past⟩
  cases op with
  | goto q => exact .inl rfl
  | complete => exact .inl rfl
  | delay t =>
    rcases env with _ | ⟨_ | _ | _, rest⟩
    · exact .inl rfl
    · exact .inl rfl
    · exact .inl rfl
    · exact .inr (.inr ⟨by simp [opTrace], rfl, rfl⟩)
  | setline id v =>
    rcases env with _ | ⟨_ | _ | _, rest⟩
    · exact .inl rfl
    · exact .inl rfl
    · by_cases h : cfg.ioCanFail = true
      · exact .inr (.inl ⟨id, v, rfl, rfl, h, by simp [attempt, trySetline, h, State.afterDraws]⟩)
      · exact .inl (by simp [attempt, trySetline, h, State.afterDraws, opTrace, MicroOp.perform])
    · exact .inr (.inr ⟨by simp [opTrace], rfl, rfl⟩)

/-- Everything a sequence of micro-operations can do: a first part of it is performed, and then it is over, or the next one
is a line write that fails, or a SETLINE or DELAY that a reset takes the place of. -/
theorem runMicro_cases (ops : List MicroOp) (s : State) :
    ∃ done rest, ops = done ++ rest ∧
      ((rest = [] ∧ runMicro ops s = .go (performAll done (s.afterDraws (drawsUsed done)))) ∨
       (∃ id v, rest.head? = some (.setline id v) ∧ s.env[drawsUsed done]? = some .fail ∧ s.cfg.ioCanFail = true ∧
          runMicro ops s = .stop (performAll done (s.afterDraws (drawsUsed done + 1))) (.writeFailed id v)) ∨
       (rest ≠ [] ∧ s.env[drawsUsed done]? = some .reset ∧
          runMicro ops s = .stop (performAll done (s.afterDraws (drawsUsed done + 1))) .reset)) := by
  induction ops generalizing s with
  | nil => exact ⟨[], [], rfl, .inl ⟨rfl, rfl⟩⟩
  | cons op ops ih =>
    rcases attempt_cases op s with h | ⟨id, v, hop, henv, hio, h⟩ | ⟨hop, henv, h⟩
    · obtain ⟨done, rest, hsplit, hcase⟩ := ih (op.perform (s.afterDraws (opTrace op).length))
      have hstate (n : Nat) : (op.perform (s.afterDraws (opTrace op).length)).afterDraws n
          = op.perform (s.afterDraws ((opTrace op).length + n)) := by
        rw [← perform_afterDraws]; simp [State.afterDraws, List.drop_drop]
      have henv' : (op.perform (s.afterDraws (opTrace op).length)).env = s.env.drop (opTrace op).length := by
        have := (perform_keeps op (s.afterDraws (opTrace op).length)); simp_all [State.afterDraws]
      have hcfg : (op.perform (s.afterDraws (opTrace op).length)).cfg = s.cfg := by
        have := (perform_keeps op (s.afterDraws (opTrace op).length)); simp_all [State.afterDraws]
      refine ⟨op :: done, rest, by simp [hsplit], ?_⟩
      rw [drawsUsed_cons]
      simp only [runMicro, h, performAll_cons]
      simpa only [hstate, henv', hcfg, List.getElem?_drop, Nat.add_assoc] using hcase
    · refine ⟨[], op :: ops, rfl, .inr (.inl ⟨id, v, by simp [hop], ?_, hio, ?_⟩)⟩
      · simpa [drawsUsed, List.head?_eq_getElem?] using henv
      · simp [runMicro, h, drawsUsed]
    · refine ⟨[], op :: ops, rfl, .inr (.inr ⟨by simp, ?_, ?_⟩)⟩
      · simpa [drawsUsed, List.head?_eq_getElem?] using henv
      · simp [runMicro, h, drawsUsed]

/-- With no disturbance ahead, micro-operations run to their end. -/
theorem runMicro_undisturbed (ops : List MicroOp) (s : State) (h : s.undisturbed = true) :
    runMicro ops s = .go (performAll ops (s.afterDraws (drawsUsed ops))) := by
  have hmem : ∀ d ∈ s.env, harmless s.cfg.ioCanFail d = true := by simpa [State.undisturbed] using h
  obtain ⟨done, rest, hsplit, ⟨hrest, hrun⟩ | ⟨id, v, -, henv, hio, -⟩ | ⟨-, henv, -⟩⟩ := runMicro_cases ops s
  · subst hrest; simp at hsplit; subst hsplit; exact hrun
  · have := hmem _ (List.mem_of_getElem? henv); simp [harmless, hio] at this
  · have := hmem _ (List.mem_of_getElem? henv); simp [harmless] at this

/-- Two sequences one after the other. -/
theorem runMicro_append (xs ys : List MicroOp) (s : State) :
    runMicro (xs ++ ys) s = match runMicro xs s with
      | .go s' => runMicro ys s'
      | .stop s' why => .stop s' why := by
  induction xs generalizing s with
  | nil => rfl
  | cons op xs ih =>
    simp only [List.cons_append, runMicro]
    cases attempt op s with
    | go s' => exact ih s'
    | stop s' why => rfl

/-! ### Conditions and conclusions -/

/-- What raising a condition leaves alone: lines, latches, trace, configuration, inputs (60_exceptions.md R312). -/
theorem raise_keeps (s : State) (c : Condition) :
    let t := s.raise c
    t.cfg = s.cfg ∧ t.lines = s.lines ∧ t.frame = s.frame ∧ t.sr = s.sr ∧ t.ht = s.ht ∧ t.ho = s.ho ∧ t.mt = s.mt ∧
      t.mo = s.mo ∧ t.trace = s.trace ∧ t.port = s.port ∧ t.env = s.env ∧ t.past = s.past ∧
      t.result = .raised c := by
  cases c <;> simp [State.raise]

/-- Which conditions move the sequencer. -/
theorem raise_seq (s : State) (c : Condition) :
    (s.raise c).seq = match c with
      | .transportFault _ _ => seqAfterFault s.seq
      | .configurationError _ => .configFault
      | .invalidDigit _ | .invalidInput _ _ | .invalidLength _ | .invalidCharacter _ _ | .invalidCommand _ => s.seq := by
  cases c <;> simp [State.raise]

/-- The status a condition delivers. -/
theorem raise_delivered (s : State) (c : Condition) :
    (s.raise c).delivered = match c with
      | .invalidDigit _ => s.delivered
      | _ => s.delivered ++ [conditionStatus c] := by
  cases c <;> simp [State.raise]

/-- An operation made of micro-operations always answers a next state. -/
theorem conclude_answers (m : Micro) : ∃ t, conclude m = .next t := by
  rcases m with s | ⟨s, _ | _⟩ <;> exact ⟨_, rfl⟩

/-! ### Frames and bits -/

theorem frameBit_setFrameBit_self (f : Frame) (l : Loc) (h : inFrame l = true) :
    frameBit (setFrameBit f l) l = true := by
  simp [inFrame] at h
  simp [frameBit, setFrameBit, h.1, h.2]

theorem frameBit_setFrameBit_other (f : Frame) (l m : Loc) (h : m ≠ l) :
    frameBit (setFrameBit f l) m = frameBit f m := by
  obtain ⟨k, i⟩ := l
  obtain ⟨k', i'⟩ := m
  unfold frameBit setFrameBit
  by_cases hk : k < 5 <;> by_cases hk' : k' < 5 <;> simp [hk, hk']
  by_cases hkk : k = k'
  · subst hkk
    have hi : i' ≠ i := fun e => h (by simp [e])
    simp
    intro _ h2
    rcases Nat.lt_or_gt_of_ne hi with h3 | h3
    · omega
    · intro h4; omega
  · simp [hkk]

theorem mem_inFrame_of_frameBit (f : Frame) (l : Loc) (h : frameBit f l = true) : inFrame l = true := by
  unfold frameBit at h
  split at h
  · rename_i hk
    have : l.bitIndex < 8 := by
      by_contra hc
      rw [BitVec.getLsbD_of_ge _ _ (by omega)] at h
      exact absurd h (by simp)
    simp [inFrame, hk, this]
  · exact absurd h (by simp)

/-- A bit of a frame with a set of locations ORed in: it was set, or its location is in the set (42_frame_encoder.md R172). -/
theorem frameBit_setFrameBits (f : Frame) (ls : List Loc) (l : Loc) (h : inFrame l = true) :
    frameBit (setFrameBits f ls) l = (frameBit f l || ls.contains l) := by
  induction ls generalizing f with
  | nil => simp [setFrameBits]
  | cons m ms ih =>
    have := ih (setFrameBit f m)
    simp only [setFrameBits, List.foldl_cons] at this ⊢
    rw [this]
    by_cases hm : l = m
    · subst hm; simp [frameBit_setFrameBit_self f l h]
    · rw [frameBit_setFrameBit_other f m l hm]; simp [hm]

/-- Two frames with the same 40 bits are equal. -/
theorem frame_ext (f g : Frame) (h : ∀ l, inFrame l = true → frameBit f l = frameBit g l) : f = g := by
  apply Vector.ext
  intro k hk
  apply BitVec.eq_of_getLsbD_eq
  intro i hi
  have := h ⟨k, i⟩ (by simp [inFrame, hk, hi])
  simpa [frameBit, hk] using this

end Sys2Proof.Machine
end

