-- ==== Sys2Proof/Laws/PerInstr.lean ====
section
/-! SUPPORT. The family Width: an encoded operation has exactly the bits the table gives its format. -/

namespace Sys2Proof.Laws.Width
open Sys2Proof Sys2Proof.Machine

/-- The number of bits of a format; a command is whole bytes (30_encoding.md R81, R83, R86, R87, R92, R95, R103). -/
def fits (c : Coded) : Prop :=
  match c.format with
  | .cmd => 8 ∣ c.bits.length ∧ 8 ≤ c.bits.length
  | .seg7 => c.bits.length = 7
  | .trec32 => c.bits.length = 32
  | .frame40 => c.bits.length = 40
  | .w40 => c.bits.length = 40
  | .w41 => c.bits.length = 41
  | .stat8 => c.bits.length = 8

/-- The encoding of `i`, if it has one, has the width of its format. -/
def Statement (i : Instr) : Prop := ∀ c, Sys2Proof.encode i = some c → fits c

theorem wordBits_length {n : Nat} (w : BitVec n) : (wordBits w).length = n := by simp [wordBits]

theorem commandBits_length (bytes : List Byte) : (bytes.flatMap byteBits).length = 8 * bytes.length := by
  induction bytes with
  | nil => rfl
  | cons b bytes ih => rw [List.flatMap_cons, List.length_append, ih, List.length_cons]; simp [byteBits]; omega

/-- A non-empty command fits. -/
theorem command_fits (b : Byte) (bytes : List Byte) (c : Coded) (h : some (⟨.cmd, (b :: bytes).flatMap byteBits⟩ : Coded) = some c) :
    fits c := by
  cases h
  simp only [fits, commandBits_length, List.length_cons]
  exact ⟨⟨_, rfl⟩, by omega⟩

theorem sendTime (hours minutes : Int) : Statement (.sendTime hours minutes) := fun c h => command_fits _ _ c h

theorem sendRaw (symbols : List Byte) : Statement (.sendRaw symbols) := fun c h => command_fits _ _ c h

theorem reserved00 : Statement .reserved00 := fun c h => command_fits _ _ c h

theorem reserved03 : Statement .reserved03 := fun c h => command_fits _ _ c h

theorem reserved04 (low : BitVec 2) : Statement (.reserved04 low) := fun c h => command_fits _ _ c h

theorem reserved08 (low : BitVec 3) : Statement (.reserved08 low) := fun c h => command_fits _ _ c h

theorem reserved10 (low : BitVec 4) : Statement (.reserved10 low) := fun c h => command_fits _ _ c h

theorem reserved20 (low : BitVec 5) : Statement (.reserved20 low) := fun c h => command_fits _ _ c h

theorem reserved40 (low : BitVec 6) : Statement (.reserved40 low) := fun c h => command_fits _ _ c h

theorem reserved80 (low : BitVec 7) : Statement (.reserved80 low) := fun c h => command_fits _ _ c h

theorem glyph0 : Statement .glyph0 := by
  intro c h; cases h; exact wordBits_length _

theorem glyph1 : Statement .glyph1 := by
  intro c h; cases h; exact wordBits_length _

theorem glyph2 : Statement .glyph2 := by
  intro c h; cases h; exact wordBits_length _

theorem glyph3 : Statement .glyph3 := by
  intro c h; cases h; exact wordBits_length _

theorem glyph4 : Statement .glyph4 := by
  intro c h; cases h; exact wordBits_length _

theorem glyph5 : Statement .glyph5 := by
  intro c h; cases h; exact wordBits_length _

theorem glyph6 : Statement .glyph6 := by
  intro c h; cases h; exact wordBits_length _

theorem glyph7 : Statement .glyph7 := by
  intro c h; cases h; exact wordBits_length _

theorem glyph8 : Statement .glyph8 := by
  intro c h; cases h; exact wordBits_length _

theorem glyph9 : Statement .glyph9 := by
  intro c h; cases h; exact wordBits_length _

theorem traceEvent (data clock enable : Level) (delay : BitVec 29) : Statement (.traceEvent data clock enable delay) := by
  intro c h; cases h; exact wordBits_length _

theorem frameRef40 (minuteOnes minuteTens hourOnes : BitVec 7) (h6 h0 : Bool) : Statement (.frameRef40 minuteOnes minuteTens hourOnes h6 h0) := by
  intro c h; cases h; rfl

theorem wireW40 (bits : BitVec 40) : Statement (.wireW40 bits) := by
  intro c h; cases h; exact wordBits_length _

theorem wireW41 (bits : BitVec 40) : Statement (.wireW41 bits) := by
  intro c h; cases h; exact congrArg (· + 1) (wordBits_length bits)

theorem statusOk : Statement .statusOk := by
  intro c h; cases h; rfl

theorem statusInvalidInput : Statement .statusInvalidInput := by
  intro c h; cases h; rfl

theorem statusInvalidLength : Statement .statusInvalidLength := by
  intro c h; cases h; rfl

theorem statusInvalidCharacter : Statement .statusInvalidCharacter := by
  intro c h; cases h; rfl

theorem statusTransportFault : Statement .statusTransportFault := by
  intro c h; cases h; rfl

theorem statusInvalidCommand : Statement .statusInvalidCommand := by
  intro c h; cases h; rfl

theorem statusConfigurationError : Statement .statusConfigurationError := by
  intro c h; cases h; rfl

theorem statusInvalidDigit : Statement .statusInvalidDigit := by
  intro c h; cases h; rfl

theorem segfont (digit : Int) : Statement (.segfont digit) := fun _ h => nomatch h

theorem locate (position : DigitPosition) (segment : Segment) : Statement (.locate position segment) := fun _ h => nomatch h

theorem encode (hours minutes : Int) : Statement (.encode hours minutes) := fun _ h => nomatch h

theorem expand : Statement .expand := fun _ h => nomatch h

theorem transmit (frame : Frame) : Statement (.transmit frame) := fun _ h => nomatch h

theorem shiftout : Statement .shiftout := fun _ h => nomatch h

theorem replay : Statement .replay := fun _ h => nomatch h

theorem idleAssert : Statement .idleAssert := fun _ h => nomatch h

theorem setline (id : Line) (level : Level) : Statement (.setline id level) := fun _ h => nomatch h

theorem delay (t : Duration) : Statement (.delay t) := fun _ h => nomatch h

end Sys2Proof.Laws.Width
end

