-- ==== Sys2Proof/Laws/Profiles.lean ====
section
/-! SUPPORT. The profile check as one conjunction, the numbered sets of the OPEN parameter HT1, each of them admissible, and
REF40 with any of them passes its check, so the installed profile does. -/

namespace Sys2Proof.Machine

/-- A profile passes exactly when it passes every clause (10_state.md R40, R31). -/
theorem profileOk_iff (p : Profile) : profileOk p = true ↔
    allEntriesPresent p = true ∧ locationsInRange p = true ∧ locationsDistinct p = true ∧ locationsDisjoint p = true ∧
      hourTensDistinct p = true ∧ frameBitsLegal p = true ∧ timingNonNegative p = true ∧ hourTensInByte4 p = true := by
  unfold profileOk profileFailures
  cases allEntriesPresent p <;> cases locationsInRange p <;> cases locationsDistinct p <;> cases locationsDisjoint p <;>
    cases hourTensDistinct p <;> cases frameBitsLegal p <;> cases timingNonNegative p <;> cases hourTensInByte4 p <;> simp

/-- Two lists stand for one set when they have the same members. -/
theorem sameSet_iff (xs ys : List Loc) : sameSet xs ys = true ↔ ∀ l, l ∈ xs ↔ l ∈ ys := by
  simp only [sameSet, Bool.and_eq_true, List.all_eq_true, List.contains_iff_mem]
  exact ⟨fun ⟨a, b⟩ l => ⟨a l, b l⟩, fun h => ⟨fun l => (h l).1, fun l => (h l).2⟩⟩

/-- Every numbered set is admissible (41_segment_map.md R152). -/
theorem ht1Mask_admissible (code : Fin 126) : ht1Admissible (byte4Set (ht1Mask code)) = true := by
  revert code; decide +kernel

/-- The times of a profile that are given as ticks are not negative. -/
theorem ticks_nonNegative (t : Tick) : (t.times 1).nonNegative = true := by
  simpa [Duration.nonNegative, Tick.times] using t.count.property

/-- REF40 with any numbered set and any times that are not negative is well-formed (10_state.md R40). -/
theorem ref40_profileOk (code : Fin 126) (times : Times Tick) :
    profileOk (ref40 (byte4Set (ht1Mask code)) (Times.timing times)) = true := by
  have clauses : ∀ code : Fin 126, let p := ref40 (byte4Set (ht1Mask code)) default
      allEntriesPresent p = true ∧ locationsInRange p = true ∧ locationsDistinct p = true ∧ locationsDisjoint p = true ∧
        hourTensDistinct p = true ∧ frameBitsLegal p = true ∧ hourTensInByte4 p = true := by decide +kernel
  have times : timingNonNegative (ref40 (byte4Set (ht1Mask code)) (Times.timing times)) = true := by
    simp [timingNonNegative, ref40, Times.timing, ticks_nonNegative]
  obtain ⟨a, b, c, d, e, f, g⟩ := clauses code
  exact (profileOk_iff _).2 ⟨a, b, c, d, e, f, times, g⟩

/-- The profile of `State.reset` is well-formed, whatever its OPEN parameters are. -/
theorem installed_profileOk : profileOk installedSetup.profile = true := ref40_profileOk _ _

end Sys2Proof.Machine
end

