-- ==== Sys2Proof/Laws/Transfer.lean ====
section
/-! SUPPORT. What the provers cite about traces and transfers: where a sequence of micro-operations leaves the lines, what
it does behind draws that let it pass, how it concludes, the trace of SHIFTOUT, and the length of EXPAND's result. -/

namespace Sys2Proof.Machine

/-! ### Equality of states -/

/-- Two states with the same fields are equal. -/
theorem State.ext_fields (s t : State) (cfg : s.cfg = t.cfg) (seq : s.seq = t.seq) (lines : s.lines = t.lines)
    (frame : s.frame = t.frame) (sr : s.sr = t.sr) (ht : s.ht = t.ht) (ho : s.ho = t.ho) (mt : s.mt = t.mt)
    (mo : s.mo = t.mo) (delivered : s.delivered = t.delivered) (trace : s.trace = t.trace) (port : s.port = t.port)
    (env : s.env = t.env) (result : s.result = t.result) (faulted : s.faulted = t.faulted) (past : s.past = t.past) :
    s = t := by
  cases s; cases t; simp_all

/-- Two line levels that agree on each line are equal. -/
theorem Lines.ext_get (l m : Lines) (h : ∀ id, l.get id = m.get id) : l = m := by
  cases l; cases m
  have a := h .data; have b := h .clk; have c := h .en
  simp [Lines.get] at a b c; simp [*]

/-! ### Lines -/

/-- One line written, any line read (43_line_transport.md R220). -/
theorem Lines.get_set (l : Lines) (i j : Line) (v : Level) : (l.set i v).get j = if i = j then v else l.get j := by
  cases i <;> cases j <;> simp [Lines.set, Lines.get]

theorem lastWrite_append (id : Line) (xs ys : List Event) :
    lastWrite id (xs ++ ys) = (lastWrite id ys).or (lastWrite id xs) := by
  induction xs with
  | nil => simp [lastWrite]
  | cons e xs ih => cases e <;> simp [lastWrite, ih, Option.or_assoc]

theorem perform_lines (op : MicroOp) (s : State) (j : Line) :
    (op.perform s).lines.get j = (lastWrite j (opTrace op)).getD (s.lines.get j) := by
  cases op with
  | setline id v =>
    simp [MicroOp.perform, opTrace, lastWrite, State.write, Lines.get_set]; split <;> rfl
  | delay t => simp [MicroOp.perform, opTrace, lastWrite, State.wait]
  | goto q => simp [MicroOp.perform, opTrace, lastWrite, State.goto]
  | complete => simp [MicroOp.perform, opTrace, lastWrite, State.complete]

/-- A sequence of micro-operations leaves each line as its events last wrote it, or as it was (10_state.md R21). -/
theorem performAll_lines (ops : List MicroOp) (s : State) (j : Line) :
    (performAll ops s).lines.get j = (lastWrite j (opsTrace ops)).getD (s.lines.get j) := by
  induction ops generalizing s with
  | nil => simp [lastWrite]
  | cons op ops ih =>
    rw [performAll_cons, ih, opsTrace_cons, lastWrite_append, perform_lines]
    cases lastWrite j (opsTrace ops) <;> simp

/-- Only the end of a transfer or of startup delivers a status. -/
theorem performAll_status (ops : List MicroOp) (s : State) (h : MicroOp.complete ∉ ops) :
    (performAll ops s).delivered = s.delivered ∧ (performAll ops s).faulted = s.faulted := by
  induction ops generalizing s with
  | nil => simp
  | cons op ops ih =>
    simp at h
    have := ih (op.perform s) h.2
    rw [performAll_cons]
    cases op <;> simp_all [MicroOp.perform]

/-! ### The environment -/

theorem performAll_afterDraws (ops : List MicroOp) (s : State) (n : Nat) :
    performAll ops (s.afterDraws n) = (performAll ops s).afterDraws n := by
  induction ops generalizing s with
  | nil => rfl
  | cons op ops ih => simp only [performAll_cons, perform_afterDraws, ih]

/-- Behind draws that let a first part pass, the rest runs in the state that part leaves. -/
theorem runMicro_passes (done rest : List MicroOp) (s : State)
    (h : ∀ j, j < drawsUsed done → s.env[j]? = some .pass) :
    runMicro (done ++ rest) s = runMicro rest (performAll done (s.afterDraws (drawsUsed done))) := by
  induction done generalizing s with
  | nil => rfl
  | cons op ops ih =>
    rw [drawsUsed_cons] at h ⊢
    have ha : attempt op s = .go (op.perform (s.afterDraws (opTrace op).length)) := by
      rcases attempt_cases op s with h' | ⟨id, v, hop, henv, -, -⟩ | ⟨hop, henv, -⟩
      · exact h'
      · have := h 0 (by simp [hop, opTrace]); rw [List.head?_eq_getElem?, this] at henv; cases henv
      · have := h 0 (by cases hh : opTrace op <;> simp_all)
        rw [List.head?_eq_getElem?, this] at henv; cases henv
    simp only [List.cons_append, runMicro, ha]
    rw [ih _ (fun j hj => ?_)]
    · rw [performAll_cons, ← perform_afterDraws]; simp [State.afterDraws, List.drop_drop]
    · rw [show (op.perform (s.afterDraws (opTrace op).length)).env = s.env.drop (opTrace op).length from
        (perform_keeps op _).2.2.2.2.2.2.2.2.1, List.getElem?_drop]
      exact h _ (by omega)

/-- The micro-operation that gives event `k` of the trace of a sequence, and what stands before it. -/
theorem opsTrace_split (ops : List MicroOp) (k : Nat) (e : Event) (h : (opsTrace ops)[k]? = some e) :
    ∃ done op rest, ops = done ++ op :: rest ∧ opsTrace done = (opsTrace ops).take k ∧ opTrace op = [e] := by
  induction ops generalizing k with
  | nil => simp at h
  | cons op ops ih =>
    rw [opsTrace_cons] at h
    by_cases hop : opTrace op = []
    · rw [hop, List.nil_append] at h
      obtain ⟨d, o, r, a, b, c⟩ := ih k h
      exact ⟨op :: d, o, r, by rw [a]; rfl, by simp [opsTrace_cons, hop, b], c⟩
    · obtain ⟨e', he'⟩ : ∃ e', opTrace op = [e'] := by cases op <;> simp [opTrace] at hop ⊢
      rw [he'] at h
      rcases k with _ | k
      · simp at h; exact ⟨[], op, ops, rfl, by simp, by rw [he', h]⟩
      · obtain ⟨d, o, r, a, b, c⟩ := ih k (by simpa using h)
        exact ⟨op :: d, o, r, by rw [a]; rfl, by simp [opsTrace_cons, he', b], c⟩

/-- What goes out before a line write and the write itself begin the output of the whole. -/
theorem opsTrace_up_to_write (done rest : List MicroOp) (id : Line) (v : Level) (h : rest.head? = some (.setline id v)) :
    opsTrace done ++ [.w id v] <+: opsTrace (done ++ rest) := by
  cases rest <;> simp at h
  subst h; exact ⟨_, by rw [opsTrace_append, opsTrace_cons, List.append_assoc]; rfl⟩

/-- Everything an operation made of micro-operations can end in, and what was coming when it did not run to its end. -/
theorem conclude_cases (ops : List MicroOp) (s : State) :
    ∃ done rest n, ops = done ++ rest ∧
      ((rest = [] ∧ conclude (runMicro ops s) = .next ((performAll done (s.afterDraws n)).returns .done)) ∨
       (∃ id v, rest.head? = some (.setline id v) ∧ s.env[drawsUsed done]? = some .fail ∧ s.cfg.ioCanFail = true ∧
          conclude (runMicro ops s) = .next ((performAll done (s.afterDraws n)).raise (.transportFault id v))) ∨
       (rest ≠ [] ∧ Draw.reset ∈ s.env ∧
          conclude (runMicro ops s) = .next (performAll done (s.afterDraws n)).applyReset)) := by
  obtain ⟨done, rest, hsplit, ⟨hrest, hrun⟩ | ⟨id, v, hh, henv, hio, hrun⟩ | ⟨hne, henv, hrun⟩⟩ := runMicro_cases ops s
  · exact ⟨done, rest, _, hsplit, .inl ⟨hrest, by rw [hrun]; rfl⟩⟩
  · exact ⟨done, rest, _, hsplit, .inr (.inl ⟨id, v, hh, henv, hio, by rw [hrun]; rfl⟩)⟩
  · exact ⟨done, rest, _, hsplit, .inr (.inr ⟨hne, List.mem_of_getElem? henv, by rw [hrun]; rfl⟩)⟩

/-- Micro-operations write no latch: FRAME and SR are as they were unless a reset ended the run, and SR keeps its number of
bits even then (10_state.md R23, R26). -/
theorem conclude_keeps_latches (ops : List MicroOp) (s t : State) (h : conclude (runMicro ops s) = .next t) :
    t.cfg = s.cfg ∧ (t.past = s.past → t.frame = s.frame ∧ t.sr = s.sr) ∧
      (s.sr.length = s.cfg.profile.frameBits → t.sr.length = s.cfg.profile.frameBits) := by
  obtain ⟨done, rest, n, -, ⟨-, h'⟩ | ⟨id, v, -, -, -, h'⟩ | ⟨-, -, h'⟩⟩ := conclude_cases ops s <;> rw [h'] at h <;> cases h <;>
    obtain ⟨cfg, frame, sr, -, -, -, -, -, -, -, past, -⟩ := performAll_keeps done (s.afterDraws n)
  · exact ⟨cfg, fun _ => ⟨frame, sr⟩, fun hl => (congrArg List.length sr).trans hl⟩
  · exact ⟨cfg, fun _ => ⟨frame, sr⟩, fun hl => (congrArg List.length sr).trans hl⟩
  · refine ⟨cfg, fun hp => ?_, fun _ => ?_⟩
    · rw [State.applyReset_past, past] at hp
      simpa [State.afterDraws] using congrArg List.length hp
    · rw [State.applyReset_sr, cfg]; simp [unspecifiedSr, State.afterDraws]

/-! ### Phases and steps -/

theorem when_ready (s : State) (h : s.seq = .ready .idle) (a : Answer) : s.when s.ready a = a := by
  simp [State.when, State.ready, h]

theorem when_not_ready (s : State) (h : s.seq ≠ .ready .idle) (a : Answer) : s.when s.ready a = .next s := by
  simp [State.when, State.ready, h]

theorem step_without_reset (s : State) (h : s.env.head? ≠ some .reset) : step s = stepSeq s := by
  simp [step, State.resetComes, h]

/-- One step of a run of any machine. -/
theorem run_succ (M : Host.Core) (m : Nat) (s t : M.State) (h : M.step s = .next t) : M.run (m + 1) s = M.run m t := by
  simp [Host.Core.run, h]

/-! ### The transfer -/

theorem opsTrace_flatMap {α : Type} (f : α → List MicroOp) (xs : List α) :
    opsTrace (xs.flatMap f) = xs.flatMap fun x => opsTrace (f x) := by
  simp [opsTrace, List.flatMap_assoc]

/-- The micro-operations of SHIFTOUT give `T(SR)` (43_line_transport.md R205, R212). -/
theorem opsTrace_shiftout (p : Profile) (bit : Nat → Bool) :
    opsTrace (shiftoutOps p bit) = transferTrace p.timing ((List.range p.frameBits).map bit) := by
  simp only [shiftoutOps, transferStates, List.flatMap_cons, List.flatMap_append, List.flatMap_nil, segmentOps, bodyOps,
    advanceOp, cellOps, opsTrace_append, opsTrace_cons, opTrace, opsTrace_flatMap, opsTrace_nil, transferTrace,
    List.flatMap_map, List.cons_append, Config.enableAssertedLevel, Config.idleLevel]
  simp [cellTrace]

theorem frameWire_length (f : Frame) : (frameWire f).length = 40 := by
  rcases f with ⟨⟨xs⟩, hx⟩
  rcases xs with _ | ⟨a, _ | ⟨b, _ | ⟨c, _ | ⟨d, _ | ⟨e, _ | _⟩⟩⟩⟩⟩ <;> simp at hx
  simp [frameWire, byteBits]

/-- EXPAND gives exactly `frameBits` bits (43_line_transport.md R201). -/
theorem expandBits_length (p : Profile) (h : frameBitsLegal p = true) (f : Frame) :
    (expandBits p.frameBits f).length = p.frameBits := by
  simp only [frameBitsLegal, Bool.or_eq_true, decide_eq_true_eq] at h
  rcases h with h | h <;> simp [expandBits, h, frameWire_length]

end Sys2Proof.Machine
end

