-- ==== Sys2Proof/Tests/Slice0.lean ====
section
/-! SUPPORT. Tests. Every expected value is written out from spec/ (95_test_vectors.md and the encodings of 30_encoding.md and
40_segment_font.md). Part 1: well-formedness. Part 2: decoding. Part 3: operations. Part 4: witnesses of hypotheses. -/

namespace Sys2Proof.Tests.Slice0
open Sys2Proof Sys2Proof.Machine

-- One kernel check after the other: many at once need more memory for their stacks than the check has.
set_option Elab.async false

/-! ### Helpers -/

/-- `q` seconds. -/
def sec (q : Rat) : Duration := ⟨q, 0⟩

def timing : Timing := ⟨sec 5, sec 3, sec 6, sec 5, sec 5⟩

/-- One second as a tick. -/
def oneSecond : Tick := ⟨⟨1, by decide⟩, 0⟩

/-- The trace of 95_test_vectors.md section 5. -/
def threeRows : List TraceRow :=
  [⟨some (sec (mkRat 1 4)), some 0, some 0, some 0⟩, ⟨some (sec 0), some 1, some 0, some 1⟩,
   ⟨some (sec (mkRat 1 1000)), some 0, some 1, some 0⟩]

def setup (asset : TraceAsset) (io : Bool) : Setup :=
  { profile := ref40 [⟨4, 6⟩] timing, asset := asset, traceTick := oneSecond, ioCanFail := io }

/-- A 41-bit profile. -/
def setup41 : Setup :=
  { profile := { ref40 [⟨4, 6⟩] timing with frameBits := 41 }, asset := .file [], traceTick := oneSecond, ioCanFail := false }

/-- The malformed profile of program P5: MinuteOnes G at (1,2). -/
def setupBad : Setup :=
  let p := ref40 [⟨4, 6⟩] timing
  { profile := { p with digitMaps := { p.digitMaps with minuteOnes := { p.digitMaps.minuteOnes with g := some ⟨1, 2⟩ } } }
    asset := .file [], traceTick := oneSecond, ioCanFail := false }

def at' (cfg : Setup) (q : Seq) (env : List Draw) (port : List Byte) : State where
  cfg := cfg
  seq := q
  lines := ⟨true, true, true⟩
  frame := #v[0, 0, 0, 0, 0]
  sr := List.replicate cfg.profile.frameBits false
  ht := 0
  ho := 0
  mt := 0
  mo := 0
  delivered := match q with
    | .ready _ => [.ok]
    | .configFault => [.transportFault]
    | .load | .replay _ => []
  trace := []
  port := port
  env := env
  result := .nothing
  faulted := false
  past := []

/-- A 40-bit block in READY(Idle). -/
def idle : State := at' (setup (.file threeRows) true) (.ready .idle) [] []

/-- A 41-bit block in READY(Idle). -/
def idle41 : State := at' setup41 (.ready .idle) [] []

def startup (q : Seq) (env : List Draw) : State := at' (setup (.file threeRows) true) q env []

def rom : State := at' (setup (.rom [0x0003D090, 0xA0000000, 0xFFFFFFFB]) true) (.replay 0) [] []

/-- A check of the next state of an answer. -/
def holdsNext (a : Answer) (check : State → Bool) : Bool :=
  match a with
  | .next t => check t
  | .fault _ | .refused _ => false

def ones (n : Nat) : List Byte := List.replicate n 0x31

def zeros (n : Nat) : List Byte := List.replicate n 0x30

/-- An answer that passes a check is a next state. -/
theorem next_of_check {a : Answer} {check : State → Bool} (h : holdsNext a check = true) : ∃ t, a = .next t := by
  cases a with
  | next t => exact ⟨t, rfl⟩
  | fault r => exact absurd h (by simp [holdsNext])
  | refused r => exact absurd h (by simp [holdsNext])

/-! ### 1. Well-formedness -/

theorem test_wellFormed_accepts : [Instr.sendTime (-128) 127, .sendTime 127 (-128), .sendRaw [], .sendRaw (zeros 255), .delay (sec 0),
    .delay (sec 7), .reserved80 0x7F, .glyph9].all WellFormed = true := by decide +kernel

theorem test_wellFormed_refuses_hours : WellFormed (.sendTime 128 0) = false ∧ WellFormed (.sendTime (-129) 0) = false := by decide

theorem test_wellFormed_refuses_minutes : WellFormed (.sendTime 0 128) = false ∧ WellFormed (.sendTime 0 (-129)) = false := by decide

theorem test_wellFormed_refuses_symbols : WellFormed (.sendRaw (zeros 256)) = false := by decide +kernel

theorem test_wellFormed_refuses_negative_delay : WellFormed (.delay (sec (-1))) = false ∧ WellFormed (.delay ⟨-1, 3⟩) = false := by decide +kernel

/-! ### 2. Decoding -/

theorem test_decode_sendTime : decodeCommand ([0x01, 0x17, 0x3B] ++ [0xAA]) = .ok (.sendTime 23 59, [0xAA]) := by decide

theorem test_decode_sendTime_negative : decodeCommand ([0x01, 0x80, 0x7F] ++ [0xAA]) = .ok (.sendTime (-128) 127, [0xAA]) := by decide

theorem test_decode_sendRaw : decodeCommand ([0x02, 0x03, 0x30, 0x31, 0x32] ++ [0xAA]) = .ok (.sendRaw [0x30, 0x31, 0x32], [0xAA]) := by decide

theorem test_decode_sendRaw_empty : decodeCommand ([0x02, 0x00] ++ [0xAA]) = .ok (.sendRaw [], [0xAA]) := by decide

theorem test_decode_reserved00 : decodeCommand ([0b00000000] ++ [0xAA]) = .ok (.reserved00, [0xAA]) := by decide

theorem test_decode_reserved03 : decodeCommand ([0b00000011] ++ [0xAA]) = .ok (.reserved03, [0xAA]) := by decide

theorem test_decode_reserved04 : decodeCommand ([0b00000110] ++ [0xAA]) = .ok (.reserved04 0b10, [0xAA]) := by decide

theorem test_decode_reserved08 : decodeCommand ([0b00001011] ++ [0xAA]) = .ok (.reserved08 0b011, [0xAA]) := by decide

theorem test_decode_reserved10 : decodeCommand ([0b00010110] ++ [0xAA]) = .ok (.reserved10 0b0110, [0xAA]) := by decide

theorem test_decode_reserved20 : decodeCommand ([0b00100101] ++ [0xAA]) = .ok (.reserved20 0b00101, [0xAA]) := by decide

theorem test_decode_reserved40 : decodeCommand ([0b01100001] ++ [0xAA]) = .ok (.reserved40 0b100001, [0xAA]) := by decide

theorem test_decode_reserved80 : decodeCommand ([0b11000001] ++ [0xAA]) = .ok (.reserved80 0b1000001, [0xAA]) := by decide

theorem test_decode_glyph0 : decode ⟨.seg7, [true, true, true, true, true, true, false]⟩ = .ok .glyph0 := by decide

theorem test_decode_glyph1 : decode ⟨.seg7, [false, true, true, false, false, false, false]⟩ = .ok .glyph1 := by decide

theorem test_decode_glyph2 : decode ⟨.seg7, [true, true, false, true, true, false, true]⟩ = .ok .glyph2 := by decide

theorem test_decode_glyph3 : decode ⟨.seg7, [true, true, true, true, false, false, true]⟩ = .ok .glyph3 := by decide

theorem test_decode_glyph4 : decode ⟨.seg7, [false, true, true, false, false, true, true]⟩ = .ok .glyph4 := by decide

theorem test_decode_glyph5 : decode ⟨.seg7, [true, false, true, true, false, true, true]⟩ = .ok .glyph5 := by decide

theorem test_decode_glyph6 : decode ⟨.seg7, [true, false, true, true, true, true, true]⟩ = .ok .glyph6 := by decide

theorem test_decode_glyph7 : decode ⟨.seg7, [true, true, true, false, false, false, false]⟩ = .ok .glyph7 := by decide

theorem test_decode_glyph8 : decode ⟨.seg7, [true, true, true, true, true, true, true]⟩ = .ok .glyph8 := by decide

theorem test_decode_glyph9 : decode ⟨.seg7, [true, true, true, true, false, true, true]⟩ = .ok .glyph9 := by decide

/-- Event e2 of 95_test_vectors.md section 5: 1000 ticks, levels 0 1 0. -/
theorem test_decode_traceEvent :
    decode ⟨.trec32, [false, true, false, false, false, false, false, false, false, false, false, false, false, false, false, false, false, false, false, false, false, false, true, true, true, true, true, false, true, false, false, false]⟩
      = .ok (.traceEvent false true false 1000) := by decide +kernel

/-- The delay is signed: all ones but the last two bits 0 1 1 is minus five. -/
theorem test_decode_traceEvent_negative :
    (recordEvent oneSecond true true true ((0xFFFFFFFB#32).setWidth 29)).delay = sec (-5) := by decide +kernel

/-- Vector V4, ENCODE(21, 31): MinuteOnes 1, MinuteTens 3, HourOnes 1, hour-tens 2. -/
theorem test_decode_frameRef40 :
    decode ⟨.frame40, [true, false, true, false, true, true, false, false, false, false, true, true, false, true, false, false, false, true, true, true, true, true, false, true, false, false, true, true, false, true, false, false, false, true, false, false, false, false, false, true]⟩
      = .ok (.frameRef40 0b0110000 0b1111001 0b0110000 true true) := by decide +kernel

/-- Vector V2: MinuteOnes E is at (4,7). -/
theorem test_decode_frameRef40_minuteOnesE :
    decode ⟨.frame40, [true, false, true, false, true, true, false, false, false, true, true, true, true, true, true, false, true, true, true, true, true, true, true, false, true, true, true, true, true, true, true, false, true, false, false, false, false, false, false, false]⟩
      = .ok (.frameRef40 0b1111110 0b1111110 0b1111110 false false) := by decide +kernel

theorem test_decode_frameRef40_constant :
    decode ⟨.frame40, [true, false, true, false, true, true, false, true, false, true, true, true, true, true, true, false, true, true, true, true, true, true, true, false, true, true, true, true, true, true, true, false, true, false, false, false, false, false, false, false]⟩
      = .error .wrongConstantBit := by decide +kernel

theorem test_decode_wireW40 :
    decode ⟨.w40, [true, false, true, false, true, true, false, false, false, false, true, true, false, true, false, false, false, false, true, true, false, true, false, false, false, false, true, true, false, true, false, false, false, false, false, false, false, false, false, false]⟩ = .ok (.wireW40 0xAC34343400) := by decide +kernel

theorem test_decode_wireW41 :
    decode ⟨.w41, [true, true, false, true, false, true, true, false, false, false, false, true, true, false, true, false, false, false, false, true, true, false, true, false, false, false, false, true, true, false, true, false, false, false, false, false, false, false, false, false, false]⟩ = .ok (.wireW41 0xAC34343400) := by decide +kernel

theorem test_decode_wireW41_framing :
    decode ⟨.w41, [false, true, false, true, false, true, true, false, false, false, false, true, true, false, true, false, false, false, false, true, true, false, true, false, false, false, false, true, true, false, true, false, false, false, false, false, false, false, false, false, false]⟩ = .error .wrongConstantBit := by decide +kernel

theorem test_decode_statusOk : decode ⟨.stat8, [false, false, false, false, false, false, false, false]⟩ = .ok .statusOk := by decide

theorem test_decode_statusInvalidInput : decode ⟨.stat8, [false, false, false, false, false, false, false, true]⟩ = .ok .statusInvalidInput := by decide

theorem test_decode_statusInvalidLength : decode ⟨.stat8, [false, false, false, false, false, false, true, false]⟩ = .ok .statusInvalidLength := by decide

theorem test_decode_statusInvalidCharacter : decode ⟨.stat8, [false, false, false, false, false, false, true, true]⟩ = .ok .statusInvalidCharacter := by decide

theorem test_decode_statusTransportFault : decode ⟨.stat8, [false, false, false, false, false, true, false, false]⟩ = .ok .statusTransportFault := by decide

theorem test_decode_statusInvalidCommand : decode ⟨.stat8, [false, false, false, false, false, true, false, true]⟩ = .ok .statusInvalidCommand := by decide

theorem test_decode_statusConfigurationError : decode ⟨.stat8, [false, false, false, false, false, true, true, false]⟩ = .ok .statusConfigurationError := by decide

theorem test_decode_statusInvalidDigit : decode ⟨.stat8, [false, false, false, false, false, true, true, true]⟩ = .ok .statusInvalidDigit := by decide

theorem test_decode_status_none : decode ⟨.stat8, [false, false, false, false, true, false, false, false]⟩ = .error .noSuchStatus := by decide

theorem test_decode_truncated : decodeCommand [0x01, 0x15] = .error .truncated ∧ decodeCommand [0x02, 0x02, 0x30] = .error .truncated ∧
    decodeCommand [] = .error .truncated := by decide

/-- The two commands and the eight RESERVED rows: each opcode byte is read as the row its table pattern says, and only that. -/
theorem test_opcode_rows_cover : (List.range 256).all (fun n =>
    ((if n = 0x01 ∨ n = 0x02 then 1 else 0) + [(0x00, 0xFF), (0x03, 0xFF), (0x04, 0xFC), (0x08, 0xF8), (0x10, 0xF0), (0x20, 0xE0),
      (0x40, 0xC0), (0x80, 0x80)].countP fun r => (n &&& r.2) == r.1) == 1) = true := by decide +kernel

/-- The table's numbering: byte 0 in the low bits. -/
theorem test_table_words : decodeTableWord 24 0x1F1501 = some (.sendTime 21 31) ∧ decodeTableWord 8 0x01 = some (.sendTime 0 0) ∧
    decodeTableWord 16 0x0102 = some (.sendRaw [0x00]) ∧ decodeTableWord 8 0xC1 = some (.reserved80 0x41) ∧
    decodeTableWord 32 0xA0000000 = some (.traceEvent true false true 0) := by decide +kernel

theorem test_withFetchWord_command : holdsNext (step (idle.withFetchWord 8 0x07)) (fun t =>
    t.delivered == [.ok, .invalidCommand] && t.port.isEmpty) = true := by decide +kernel

theorem test_withFetchWord_record : holdsNext (step (idle.withFetchWord 32 0xA0000000)) (fun t =>
    t.seq == .replay 1 && t.trace == [.w .data true, .w .clk false, .w .en true]) = true := by decide +kernel

/-! ### 3. Operations -/

theorem test_encode_V1 : encodeFrame (ref40 [⟨4, 6⟩] timing) 1 11 = #v[0xAC, 0x34, 0x34, 0x34, 0x00] := by decide +kernel

theorem test_encode_V2 : encodeFrame (ref40 [⟨4, 6⟩] timing) 0 0 = #v[0xAC, 0x7E, 0xFE, 0xFE, 0x80] := by decide +kernel

theorem test_encode_V3 : encodeFrame (ref40 [⟨4, 6⟩] timing) 2 0 = #v[0xAC, 0x7E, 0xFE, 0xED, 0x80] := by decide +kernel

theorem test_encode_V4 : encodeFrame (ref40 [⟨4, 6⟩] timing) 21 31 = #v[0xAC, 0x34, 0x7D, 0x34, 0x41] := by decide +kernel

theorem test_encode_lastTime : encodeFrame (ref40 [⟨4, 6⟩] timing) 23 59 = #v[0xAC, 0x7F, 0x5F, 0x7D, 0x41] := by decide +kernel

theorem test_encode_d2 : encodeFrame (ref40 [⟨4, 6⟩] timing) 7 45 = #v[0xAC, 0x5F, 0x37, 0x74, 0x00] := by decide +kernel

theorem test_encode_d2b : encodeFrame (ref40 [⟨4, 6⟩] timing) 3 27 = #v[0xAC, 0x74, 0xED, 0x7D, 0x00] := by decide +kernel

theorem test_encode_ht1 : encodeFrame (ref40 [⟨4, 6⟩] timing) 16 52 = #v[0xAC, 0x6D, 0x5F, 0xDF, 0xC0] := by decide +kernel

theorem test_encode_rejects : [(24, 0), (0, 60), (-1, 0), (0, -1), (24, 60), (100, 100), (-128, 127)].all (fun x =>
    holdsNext (exec (.encode x.1 x.2) idle) fun t =>
      t.result == .raised (.invalidInput x.1 x.2) && t.frame == idle.frame && t.delivered == [.ok, .invalidInput]) = true := by
  decide +kernel

theorem test_segfont : holdsNext (exec (.segfont 9) idle) (fun t => t.result == .segments 0b1111011) = true ∧
    holdsNext (exec (.segfont 10) idle) (fun t => t.result == .raised (.invalidDigit 10) && t.delivered == [.ok]) = true := by decide +kernel

/-- R140's example: HourOnes G is at (3,0). -/
theorem test_locate : holdsNext (exec (.locate .hourOnes .g) idle) (fun t => t.result == .location (some ⟨3, 0⟩)) = true := by decide +kernel

/-- EXPAND of AC 34 7D 34 41. -/
theorem test_expand : expandBits 40 #v[0xAC, 0x34, 0x7D, 0x34, 0x41]
    = [true, false, true, false, true, true, false, false, false, false, true, true, false, true, false, false, false, true, true, true, true, true, false, true, false, false, true, true, false, true, false, false, false, true, false, false, false, false, false, true] := by decide +kernel

theorem test_expand_41 : (expandBits 41 #v[0xAC, 0x34, 0x34, 0x34, 0x00]).take 9
    = [true, true, false, true, false, true, true, false, false] ∧ (expandBits 41 #v[0xAC, 0x34, 0x34, 0x34, 0x00]).length = 41 := by decide +kernel

/-- Location to wire index (95_test_vectors.md section 4). -/
theorem test_wireIndex : [(⟨0, 7⟩ : Loc), ⟨0, 0⟩, ⟨1, 2⟩, ⟨3, 0⟩, ⟨4, 7⟩, ⟨4, 6⟩, ⟨4, 0⟩].map wireIndex
    = [0, 7, 13, 31, 32, 33, 39] := by decide

/-- Bits 1 0 0 ...: the first two cells and the end of the trace. -/
theorem test_transmit : holdsNext (exec (.transmit #v[0x80, 0, 0, 0, 0]) idle) (fun t =>
    t.trace.length == 206 && writeCount t.trace == 123 && t.trace.take 12 == [.w .en false, .d (sec 5),
      .w .data true, .w .clk false, .d (sec 3), .w .clk true, .d (sec 6), .w .data false, .w .clk false, .d (sec 3), .w .clk true,
      .d (sec 6)] &&
    t.trace.drop 202 == [.w .data true, .d (sec 5), .w .en true, .d (sec 5)] && t.frame == idle.frame) = true := by decide +kernel

theorem test_shiftout_41 : holdsNext (exec .shiftout idle41) (fun t => t.trace.length == 211 && writeCount t.trace == 126) = true := by
  decide +kernel

/-- Program P1's command. -/
theorem test_sendTime : holdsNext (step { idle with port := [0x01, 0x01, 0x0B] }) (fun t =>
    t.frame == #v[0xAC, 0x34, 0x34, 0x34, 0x00] && t.delivered == [.ok, .ok] && t.trace.length == 206 && t.seq == .ready .idle &&
    t.lines == ⟨true, true, true⟩ && t.port.isEmpty) = true := by decide +kernel

/-- Program P3: the W(CLK,1) of cell 2 fails; 15 events come before it. -/
theorem test_sendTime_fault : holdsNext (exec (.sendTime 21 31) { idle with env := List.replicate 15 .pass ++ [.fail] }) (fun t =>
    t.delivered == [.ok, .transportFault] && t.trace.length == 15 && t.lines == ⟨true, false, false⟩ && t.seq == .ready .idle &&
    t.result == .raised (.transportFault .clk true) && t.frame == #v[0xAC, 0x34, 0x7D, 0x34, 0x41] && t.faulted) = true := by
  decide +kernel

/-- Program P4: 41 symbols that begin with 0; the first cell carries 0. -/
theorem test_sendRaw_41 : holdsNext (exec (.sendRaw (0x30 :: ones 40)) idle41) (fun t =>
    t.delivered == [.ok, .ok] && t.trace.length == 211 && (t.trace.drop 2).head? == some (.w .data false)) = true := by decide +kernel

theorem test_sendRaw_rejects : holdsNext (exec (.sendRaw (zeros 39 ++ [0x32])) idle) (fun t =>
      t.delivered == [.ok, .invalidCharacter] && t.result == .raised (.invalidCharacter 39 0x32) && t.trace.isEmpty) = true ∧
    holdsNext (exec (.sendRaw (zeros 38 ++ [0x32])) idle) (fun t =>
      t.delivered == [.ok, .invalidLength] && t.result == .raised (.invalidLength 39)) = true := by decide +kernel

/-- Program P5. -/
theorem test_load_malformed : holdsNext (step (at' setupBad .load [] [])) (fun t =>
    t.seq == .configFault && t.delivered == [.configurationError] && t.result == .raised (.configurationError [.locationsOverlap])
      && t.trace.isEmpty) = true := by decide +kernel

theorem test_load_trace : [TraceAsset.missing, .unreadable, .romOfUnknownLength, .file [⟨none, some 0, some 0, some 0⟩],
      .file [⟨some (sec 0), some 2, some 0, some 0⟩], .file [⟨some (sec 0), some 0, none, some 0⟩]].all (fun a => !setupOk (setup a false)) = true ∧
    setupOk (setup (.file []) false) = true ∧ setupOk setup41 = true ∧ setupOk (setup (.file threeRows) true) = true := by decide +kernel

/-- The startup output of 95_test_vectors.md section 5. -/
theorem test_startup : holdsNext (exec .replay (startup (.replay 0) [])) (fun t => t.seq == .replay 3 && t.trace ==
    [.d (sec (mkRat 1 4)), .w .data false, .w .clk false, .w .en false, .w .data true, .w .clk false, .w .en true,
     .d (sec (mkRat 1 1000)), .w .data false, .w .clk true, .w .en false]) = true := by decide +kernel

theorem test_traceEvent_negative : holdsNext (exec (.traceEvent true true true 0x1FFFFFFB) rom) (fun t =>
    t.trace == [.w .data true, .w .clk true, .w .en true] && t.seq == .replay 1) = true := by decide +kernel

theorem test_idleAssert : holdsNext (exec .idleAssert (startup (.replay 3) [])) (fun t =>
    t.trace == [.w .data true, .w .clk true, .w .en true] && t.delivered == [.ok] && t.ready) = true := by decide +kernel

theorem test_startup_fault : holdsNext (step (startup (.replay 1) [.pass, .fail])) (fun t =>
    t.seq == .configFault && t.delivered == [.transportFault] && t.trace == [.w .data true]) = true := by decide +kernel

theorem test_transfer_reset : holdsNext (exec .shiftout { idle with env := [.pass, .pass, .reset] }) (fun t =>
    t.seq == .load && t.trace.isEmpty && t.past == [⟨[.w .en false, .d (sec 5)], [.ok]⟩]) = true := by decide +kernel

theorem test_setline_delay : holdsNext (exec (.setline .en false) idle) (fun t => t.lines == ⟨true, true, false⟩) = true ∧
    holdsNext (exec (.delay (sec 5)) idle) (fun t => t.trace == [.d (sec 5)]) = true := by decide +kernel

theorem test_frameRef40 : holdsNext (exec (.frameRef40 0b0110000 0b1111001 0b0110000 true true) idle) (fun t =>
    t.result == .frame #v[0xAC, 0x34, 0x7D, 0x34, 0x41] && t.frame == idle.frame) = true := by decide +kernel

theorem test_wireW41 : holdsNext (exec (.wireW41 0x8000000001) idle) (fun t =>
    t.result == .bits (true :: true :: List.replicate 38 false ++ [true]) && t.sr == idle.sr) = true := by decide +kernel

theorem test_glyph_status : holdsNext (exec .glyph6 idle) (fun t => t.result == .segments 0x5F) = true ∧
    holdsNext (exec .statusInvalidDigit idle) (fun t => t.delivered == [.ok, .invalidDigit]) = true := by decide +kernel

/-- Rule R14: delays of zero or less are dropped, adjacent ones added. -/
theorem test_normalise : normalise [.d (sec 0), .w .clk true, .d (sec 2), .d (sec (-1)), .d (sec 3), .w .clk true]
    = [.w .clk true, .d 5, .w .clk true] := by
  have p0 : (sec 0).positive = false := by decide +kernel
  have p2 : (sec 2).positive = true := by decide +kernel
  have p1 : (sec (-1)).positive = false := by decide +kernel
  have p3 : (sec 3).positive = true := by decide +kernel
  simp only [normalise, p0, p2, p1, p3, if_true, if_false, Bool.false_eq_true]
  simp [sec, seconds, unitSeconds]; norm_num

/-- A time that is no rational number of seconds: LOAD takes it when it is not negative, and refuses it when it is. -/
theorem test_load_irrational :
    timingNonNegative (ref40 [⟨4, 6⟩] { timing with tAssert := ⟨1, 7⟩ }) = true ∧
    timingNonNegative (ref40 [⟨4, 6⟩] { timing with tAssert := ⟨-1, 7⟩ }) = false := by decide +kernel

/-- Rule R31: an hour-tens location outside byte 4 is no profile, also where every clause of R40 holds. -/
theorem test_load_hourTens_byte : profileFailures (ref40 [⟨0, 0⟩] timing) = [.hourTensByte] := by decide +kernel

/-- Rule R152: the numbered sets begin with bit 0 alone, leave out the bits 6 and 0, and end with all of bits 6 to 0. -/
theorem test_ht1Mask : [0, 63, 64, 125].map (fun n => (ht1Mask n).toNat) = [1, 0x40, 0x42, 0x7F] := by decide

/-! ### 4. Witnesses: states and operands that meet the hypotheses of the statements -/

theorem witness_DecodeOfEncodeIsTheOperation :
    (∃ c, WellFormed (.sendTime (-128) 127) = true ∧ encode (.sendTime (-128) 127) = some c) ∧
    (∃ c, WellFormed (.wireW41 1) = true ∧ encode (.wireW41 1) = some c) := ⟨⟨_, rfl, rfl⟩, ⟨_, rfl, rfl⟩⟩

theorem witness_EncodeOfDecodeIsTheWord : ∃ i, decode ⟨.seg7, [true, true, true, true, false, true, true]⟩ = .ok i := ⟨.glyph9, by decide⟩

theorem witness_CommandStreamSplitsAtCommandLength :
    ∃ bytes, WellFormed (.sendRaw [0x30]) = true ∧ encodeCommand (.sendRaw [0x30]) = some bytes := ⟨_, rfl, rfl⟩

theorem witness_StepRunsTheDecodedCommand : ∃ i rest, (at' setup41 (.ready .idle) [.pass] [0x01, 0x80, 0x7F, 0x00]).seq = .ready .idle ∧
    (at' setup41 (.ready .idle) [.pass] [0x01, 0x80, 0x7F, 0x00]).env.head? ≠ some .reset ∧
    decodeCommand [0x01, 0x80, 0x7F, 0x00] = .ok (i, rest) := ⟨.sendTime (-128) 127, [0x00], by decide +kernel⟩

theorem witness_StepRunsTheTraceRecord :
    rom.seq = .replay 0 ∧ rom.env.head? ≠ some .reset ∧ rom.cfg.asset = .rom [0x0003D090, 0xA0000000, 0xFFFFFFFB] ∧
    [0x0003D090#32, 0xA0000000, 0xFFFFFFFB][2]? = some 0xFFFFFFFB ∧ [0x0003D090#32, 0xA0000000, 0xFFFFFFFB][3]? = none := by decide +kernel

/-- Each of the four ways a command is incomplete, the string by one symbol. -/
theorem witness_IncompleteCommandIsWaitedFor : idle.seq = .ready .idle ∧ idle.env.head? ≠ some .reset ∧ idle.port = [] ∧
    ({ idle with port := [0x01, 0x17] } : State).port = [0x01, 0x17] ∧ ({ idle with port := [0x02] } : State).port = [0x02] ∧
    (zeros 39).length < (40 : Byte).toNat := by decide +kernel

theorem witness_ResetRestartsFromEveryState : (at' setup41 .configFault [.reset] []).env.head? = some .reset := by decide +kernel

theorem witness_LoadChecksTheConfiguration :
    ((startup .load []).seq = .load ∧ (startup .load []).env.head? ≠ some .reset ∧ setupOk (startup .load []).cfg = true) ∧
    (at' setupBad .load [] []).seq = .load ∧ setupOk (at' setupBad .load [] []).cfg = false := by decide +kernel

theorem witness_SegfontIsTheStandardFont : ((0 : Int) ≤ 0 ∧ (9 : Int) ≤ 9) ∧ ((-1 : Int) < 0 ∧ (9 : Int) < 10) := by decide

theorem witness_LocateReadsTheProfile : setupOk idle.cfg = true := by decide +kernel

theorem witness_Ref40WellFormedForAdmissibleHt1 : timingNonNegative (ref40 [⟨4, 1⟩] timing) = true ∧ profileOk (ref40 [⟨0, 0⟩] timing) = false ∧
    profileOk (ref40 [⟨4, 1⟩] timing) = true ∧ profileOk (ref40 [⟨4, 7⟩] timing) = false ∧
    profileOk (ref40 [⟨4, 6⟩, ⟨4, 0⟩] timing) = false := by decide +kernel

theorem witness_EncodeBuildsTheFrame : (0 : Int) ≤ 23 ∧ (23 : Int) ≤ 23 ∧ (0 : Int) ≤ 59 ∧ (59 : Int) ≤ 59 ∧ inFrame ⟨4, 7⟩ = true := by decide

theorem witness_InvalidInputChangesNothing : ((-1 : Int) < 0 ∧ (23 : Int) < 24 ∧ (59 : Int) < 60) ∧ idle.seq = .ready .idle := by decide +kernel

theorem witness_FrameShowsExactlyTheGlyphs : profileOk idle.cfg.profile = true ∧ timeInRange 23 59 = true ∧
    locate idle.cfg.profile .hourOnes .g = some ⟨3, 0⟩ ∧ locate idle.cfg.profile .minuteTens .e = some ⟨2, 7⟩ ∧
    locate idle.cfg.profile .minuteOnes .e = some ⟨4, 7⟩ := by decide +kernel

theorem witness_HourTensChangesOnlyItsBits : profileOk idle.cfg.profile = true ∧ inFrame ⟨4, 6⟩ = true ∧ (⟨4, 6⟩ : Loc) ∈ idle.cfg.profile.hourTens[1] ∧
    (0 : Int) ≤ 9 ∧ (9 : Int) ≤ 9 ∧ (0 : Int) ≤ 3 ∧ (3 : Int) ≤ 3 := by decide +kernel

theorem witness_EncodeIsOneToOne : profileOk idle.cfg.profile = true ∧ timeInRange 0 0 = true ∧
    encodeFrame idle.cfg.profile 0 0 = encodeFrame idle.cfg.profile 0 0 := by decide +kernel

theorem witness_Ref40ClosedForm : timeInRange 9 59 = true ∧ timeInRange 20 0 = true ∧ ((9 : Int) < 10 ∨ (20 : Int) ≤ 9) ∧
    ((20 : Int) < 10 ∨ (20 : Int) ≤ 20) := by decide

theorem witness_ExpandOrdersTheFrameBits : idle.cfg.profile.frameBits = 40 ∧ idle41.cfg.profile.frameBits = 41 ∧
    inFrame ⟨0, 7⟩ = true ∧ inFrame ⟨4, 0⟩ = true := by decide +kernel

/-- The hypotheses of ShiftoutCompletesWithTheClosedTrace, FrameExpansionOfTransmit, SendTimeTransfersTheFrame. -/
theorem witness_ready_undisturbed : (idle.seq = .ready .idle ∧ frameBitsLegal idle.cfg.profile = true ∧ idle.undisturbed = true) ∧
    (idle41.seq = .ready .idle ∧ frameBitsLegal idle41.cfg.profile = true ∧ idle41.undisturbed = true ∧
      idle41.cfg.profile.frameBits = 41) ∧ (0 : Int) ≤ 0 ∧ (0 : Int) ≤ 23 ∧ (0 : Int) ≤ 59 := by decide +kernel

/-- A fail entry is harmless when writes cannot fail. -/
theorem witness_undisturbed_with_draws : State.undisturbed { idle41 with env := [.pass, .fail] } = true := by decide +kernel

theorem witness_SendRawTransfersTheString : (zeros 20 ++ ones 20).length = idle.cfg.profile.frameBits ∧
    (∀ b ∈ zeros 20 ++ ones 20, b = 0x30#8 ∨ b = 0x31#8) := by decide +kernel

theorem witness_SendRawReachesEveryBitSequence : (List.replicate 40 true).length = idle.cfg.profile.frameBits := by decide +kernel

theorem witness_InvalidLengthChangesNothing : (zeros 39).length ≠ idle.cfg.profile.frameBits ∧ (ones 41).length ≠ idle.cfg.profile.frameBits ∧
    ([] : List Byte).length ≠ idle.cfg.profile.frameBits := by decide +kernel

theorem witness_InvalidCharacterChangesNothing : (∀ b ∈ zeros 39, b = 0x30#8 ∨ b = 0x31#8) ∧ (0x32#8 ≠ 0x30#8 ∧ 0x32#8 ≠ 0x31#8) ∧
    (zeros 39 ++ 0x32 :: []).length = idle.cfg.profile.frameBits ∧ ([] ++ 0x32#8 :: zeros 39).length = idle.cfg.profile.frameBits := by
  decide +kernel

/-- Also of EachReservedRowCompletes. -/
theorem witness_ReservedOpcodeIsInvalidCommand : (0x00#8 ≠ 0x01#8 ∧ 0x00#8 ≠ 0x02#8) ∧ (0x03#8 ≠ 0x01#8 ∧ 0x03#8 ≠ 0x02#8) ∧
    idle.seq = .ready .idle := by decide +kernel

theorem witness_CommandsAreNotTakenUnlessReady : (startup (.replay 0) []).seq ≠ .ready .idle ∧
    (at' setup41 (.ready (.shifting 40)) [] []).seq ≠ .ready .idle ∧ (encodeCommand (.sendRaw [])).isSome = true := by decide +kernel

theorem witness_CompositeOperationsEndInShiftout : idle.seq = .ready .idle ∧ timeInRange 23 59 = true ∧
    (zeros 40).length = idle.cfg.profile.frameBits ∧ (∀ b ∈ zeros 40, b = 0x30#8 ∨ b = 0x31#8) := by decide +kernel

/-- Two states of one profile that differ in lines, frame and earlier trace. -/
theorem witness_SameCommandSameTrace : let s' : State := { idle with lines := ⟨false, false, false⟩, frame := #v[1, 2, 3, 4, 5], trace := [.d (sec 1)] }
    idle.seq = .ready .idle ∧ s'.seq = .ready .idle ∧ idle.cfg.profile = s'.cfg.profile ∧ frameBitsLegal idle.cfg.profile = true ∧
    idle.undisturbed = true ∧ s'.undisturbed = true := by decide +kernel

/-- A time at the start of each clause: Asserting, cell 1, its high phase, Deasserting, after W(EN,1). -/
theorem witness_TransferWaveform : (0 ≤ seconds timing.tAssert ∧ 0 ≤ seconds timing.tLow ∧ 0 ≤ seconds timing.tHigh ∧
      0 ≤ seconds timing.tDataIdle) ∧
    ((0 : ℝ) < seconds timing.tAssert) ∧ [true, false][1]? = some false ∧
    (seconds timing.tAssert + 1 * (seconds timing.tLow + seconds timing.tHigh) ≤ 14 ∧
      (14 : ℝ) < seconds timing.tAssert + 1 * (seconds timing.tLow + seconds timing.tHigh) + seconds timing.tLow) ∧
    (17 : ℝ) = seconds timing.tAssert + 1 * (seconds timing.tLow + seconds timing.tHigh) + seconds timing.tLow ∧
    (23 : ℝ) = seconds timing.tAssert + 2 * (seconds timing.tLow + seconds timing.tHigh) ∧
    (28 : ℝ) = seconds timing.tAssert + 2 * (seconds timing.tLow + seconds timing.tHigh) + seconds timing.tDataIdle := by
  simp only [timing, sec, seconds, unitSeconds]; norm_num

/-- Draws that pass `k` times and then do something else. -/
theorem passes_then (k : Nat) (d : Draw) : (∀ j, j < k → (List.replicate k Draw.pass ++ [d])[j]? = some .pass) ∧
    (List.replicate k Draw.pass ++ [d])[k]? = some d := by
  constructor
  · intro j h; simp [List.getElem?_append, h]
  · simp

/-- The first and the last write of a transfer; the draws are those of `passes_then`. -/
theorem witness_TransportFaultAbandonsTheTransfer : idle.seq = .ready .idle ∧ idle.cfg.ioCanFail = true ∧
    (transferTrace idle.cfg.profile.timing idle.shiftBits)[0]? = some (.w .en false) ∧
    (transferTrace idle.cfg.profile.timing idle.shiftBits)[204]? = some (.w .en true) ∧
    (let s : State := { idle with env := List.replicate 204 .pass ++ [.fail] }
     (∀ j, j < 204 → s.env[j]? = some .pass) ∧ s.env[204]? = some .fail) :=
  ⟨by decide +kernel, by decide +kernel, by decide +kernel, by decide +kernel, passes_then 204 .fail⟩

theorem witness_ResetCutsTheTransferShort : idle.seq = .ready .idle ∧
    205 < (transferTrace idle.cfg.profile.timing idle.shiftBits).length ∧
    (let s : State := { idle with env := List.replicate 205 .pass ++ [.reset] }
     (∀ j, j < 205 → s.env[j]? = some .pass) ∧ s.env[205]? = some .reset) :=
  ⟨by decide +kernel, by decide +kernel, passes_then 205 .reset⟩

theorem witness_MicroOperationsComplete : idle.seq ≠ .load ∧ idle.seq ≠ .configFault ∧ idle.undisturbed = true ∧
    (startup (.replay 1) [.pass]).seq ≠ .load ∧ (startup (.replay 1) [.pass]).undisturbed = true := by decide +kernel

theorem witness_FailedWriteChangesNoLine :
    (let s := startup (.replay 1) [.fail]; s.seq ≠ .load ∧ s.seq ≠ .configFault ∧ s.env.head? = some .fail ∧ s.cfg.ioCanFail = true ∧
      s.seq = .replay 1) ∧
    (let s : State := { idle with env := [.fail] }; s.env.head? = some .fail ∧ s.cfg.ioCanFail = true ∧ s.seq = .ready .idle) ∧
    (let s : State := { idle41 with env := [.fail] }; s.seq ≠ .load ∧ s.env.head? = some .fail ∧ s.cfg.ioCanFail = false) := by decide +kernel

theorem witness_TraceEventWaitsThenWritesThreeLines : rom.seq = .replay 0 ∧ 0 < rom.traceLength ∧ rom.undisturbed = true ∧
    ({ rom with seq := .replay 2 } : State).seq = .replay 2 ∧ 2 < rom.traceLength := by decide +kernel

theorem witness_ReplayAppliesEveryEvent : (startup (.replay 0) []).seq = .replay 0 ∧ (startup (.replay 0) []).undisturbed = true ∧
    traceEvents (startup (.replay 0) []).cfg ≠ [] ∧ traceEvents setup41 = [] := by decide +kernel

theorem witness_IdleAssertEndsStartup : (startup (.replay 3) []).seq = .replay (startup (.replay 3) []).traceLength ∧
    (startup (.replay 3) []).undisturbed = true ∧ (at' setup41 (.replay 0) [] []).seq = .replay (at' setup41 (.replay 0) [] []).traceLength := by
  decide +kernel

/-- The four kinds of startup operation, each with a write that fails behind a draw that passes. -/
theorem witness_StartupFaultIsTerminal :
    (let s := startup (.replay 0) [.pass, .fail]
     s.cfg.ioCanFail = true ∧ s.seq = .replay 0 ∧ (replayTrace (traceEvents s.cfg))[1]? = some (.w .data false) ∧
      s.env[0]? = some .pass ∧ s.env[1]? = some .fail ∧
      s.traceEvent 0 = some ⟨sec (mkRat 1 4), false, false, false⟩ ∧
      (eventTrace ⟨sec (mkRat 1 4), false, false, false⟩)[1]? = some (.w .data false)) ∧
    (let s := startup (.replay 3) [.pass, .pass, .fail]
     s.cfg.ioCanFail = true ∧ s.seq = .replay s.traceLength ∧ idleAssertTrace[2]? = some (.w .en true) ∧
      s.env[1]? = some .pass ∧ s.env[2]? = some .fail) ∧
    (let s : State := { rom with env := [.fail] }
     s.cfg.ioCanFail = true ∧ s.seq = .replay 0 ∧ 0 < s.traceLength ∧
      (eventTrace (recordEvent s.cfg.traceTick true false true 0))[0]? = some (.w .data true) ∧ s.env[0]? = some .fail) := by
  decide +kernel

/-- What the two startup steps with a failed write leave (60_exceptions.md R307). -/
theorem test_idleAssert_fault : holdsNext (step (startup (.replay 3) [.pass, .pass, .fail])) (fun t =>
    t.seq == .configFault && t.delivered == [.transportFault] && t.trace == [.w .data true, .w .clk true]) = true := by
  decide +kernel

theorem witness_OutOfPhaseOperationsChangeNothing : (startup .load []).seq ≠ .ready .idle ∧ idle.seq ≠ .replay 0 ∧
    (startup (.replay 2) []).seq = .replay 2 ∧ 2 < (startup (.replay 2) []).traceLength ∧
    (startup (.replay 3) []).traceLength ≤ 3 ∧ (startup .configFault []).seq = .configFault := by decide +kernel

/-- FRAME and SR change, without a reset: FrameRef40FollowsTheFieldTable, WireFormatsGiveTheirBits. -/
theorem witness_latches_change : holdsNext (exec (.sendTime 21 31) idle) (fun t =>
    t.past == idle.past && t.frame != idle.frame && t.sr != idle.sr) = true ∧ frameBitsLegal idle.cfg.profile = true ∧
    idle.sr.length = idle.cfg.profile.frameBits := by decide +kernel

/-- An operation and a step that answer a next state: ConfigurationNeverChanges, OutputIsNeverTakenBack. -/
theorem witness_next : (∃ t, exec .expand idle = .next t) ∧ (∃ t, step { idle with port := [0x01, 0x17, 0x3B] } = .next t) :=
  ⟨⟨_, rfl⟩, next_of_check (check := fun t => t.seq == .ready .idle) (by decide +kernel)⟩

theorem witness_ConfigFaultIsLeftByResetOnly : let s := at' setup41 .configFault [.fail] [0x01, 0x00, 0x00]
    s.seq = .configFault ∧ s.env.head? ≠ some .reset := by decide +kernel

/-- A block in READY(Idle) with a command at the port is sound, and so is one in the last bit cell of a transfer. -/
theorem sound_of_ready (cfg : Setup) (x : Xfer) (env : List Draw) (port : List Byte) (hok : setupOk cfg = true)
    (hx : ∀ i, x = .shifting i → i < cfg.profile.frameBits) : SequencerSound (at' cfg (.ready x) env port) :=
  ⟨fun _ => hok, fun _ h => by simp [at'] at h, fun i h => hx i (by simpa [at'] using h), by simp [at']⟩

theorem witness_StepKeepsSequencerSound : let s := at' (setup (.file threeRows) true) (.ready .idle) [] [0x01, 0x17, 0x3B]
    SequencerSound s ∧ ∃ t, step s = .next t :=
  ⟨sound_of_ready _ _ _ _ (by decide +kernel) (fun _ h => by cases h),
   next_of_check (check := fun t => t.seq == .ready .idle) (by decide +kernel)⟩

theorem witness_StepKeepsIdleHigh : let s := at' (setup (.file threeRows) true) (.ready .deasserting) [] []
    IdleHigh s ∧ ∃ t, step s = .next t :=
  ⟨⟨sound_of_ready _ _ _ _ (by decide +kernel) (fun _ h => by cases h), fun _ => rfl, fun h => by simp [at'] at h⟩,
   next_of_check (check := fun t => t.seq == .ready .idle) (by decide +kernel)⟩

theorem witness_StepKeepsOutputSound : let s := at' (setup (.file threeRows) true) (.ready .idle) [] [0x07]
    OutputSound s ∧ ∃ t, step s = .next t :=
  ⟨⟨sound_of_ready _ _ _ _ (by decide +kernel) (fun _ h => by cases h), fun h => by simp [at'] at h, fun _ h => by simp [at'] at h,
    fun _ _ => rfl, fun h => by simp [at'] at h⟩,
   next_of_check (check := fun t => t.delivered == [.ok, .invalidCommand]) (by decide +kernel)⟩

theorem witness_StepKeepsLinesFollowTrace : let s := { startup (.replay 1) [] with trace := [.w .clk true] }
    LinesFollowTrace s ∧ ∃ t, step s = .next t :=
  ⟨fun id v h => by cases id <;> simp [lastWrite, startup, at', Lines.get] at h ⊢; exact h,
   next_of_check (check := fun t => t.seq == .replay 2) (by decide +kernel)⟩

theorem witness_SequencerMovesLegally : let s := at' setup41 (.ready (.shifting 40)) [] []
    SequencerSound s ∧ ∃ t, step s = .next t :=
  ⟨sound_of_ready _ _ _ _ (by decide +kernel) (fun i h => by cases h; decide +kernel),
   next_of_check (check := fun t => t.seq == .ready .deasserting) (by decide +kernel)⟩

/-- A command whose transfer a failed write cuts short, and one that its check rejects (60_exceptions.md R305, R302). -/
theorem witness_SequencerMovesLegally_commands :
    let cut := at' (setup (.file threeRows) true) (.ready .idle) [.pass, .pass, .fail] [0x01, 0x17, 0x3B]
    let bad := at' (setup (.file threeRows) true) (.ready .idle) [] [0x01, 0x18, 0x00]
    SequencerSound cut ∧ SequencerSound bad ∧
    holdsNext (step cut) (fun t => t.trace.length == 2 && t.delivered == [.ok, .transportFault]) = true ∧
    holdsNext (step bad) (fun t => t.trace == [] && t.delivered == [.ok, .invalidInput]) = true :=
  ⟨sound_of_ready _ _ _ _ (by decide +kernel) (fun _ h => by cases h),
   sound_of_ready _ _ _ _ (by decide +kernel) (fun _ h => by cases h), by decide +kernel, by decide +kernel⟩

/-- A transfer left early by a failed write. -/
theorem test_transfer_fault_step : holdsNext (step (at' (setup (.file threeRows) true) (.ready (.shifting 3)) [.pass, .fail] [])) (fun t =>
    t.seq == .ready .idle && t.delivered == [.ok, .transportFault] && t.trace == [.w .data false]) = true := by decide +kernel

theorem witness_ShiftoutIsTheTransferStepByStep : ({ idle with env := [.pass, .fail] } : State).seq = .ready .idle := by decide +kernel

theorem witness_StartupReachesReady : (startup .load []).seq = .load ∧ setupOk (startup .load []).cfg = true ∧
    (startup .load []).undisturbed = true := by decide +kernel

end Sys2Proof.Tests.Slice0
end

/-! PROOFS. What an operation can do to the outside: it leaves the lines and the trace alone, or it runs micro-operations from
a state that differs in the latches only. Said once for `exec` and once for `step`; the invariants below cite it. -/

namespace Sys2Proof.Machine

/-! ### Fields that micro-operations keep -/

theorem performAll_trace (ops : List MicroOp) (s : State) : (performAll ops s).trace = s.trace ++ opsTrace ops := by
  obtain ⟨-, -, -, -, -, -, -, -, -, -, -, trace⟩ := performAll_keeps ops s
  exact trace

theorem performAll_past (ops : List MicroOp) (s : State) : (performAll ops s).past = s.past := by
  obtain ⟨-, -, -, -, -, -, -, -, -, -, past, -⟩ := performAll_keeps ops s
  exact past

theorem performAll_port (ops : List MicroOp) (s : State) : (performAll ops s).port = s.port := by
  obtain ⟨-, -, -, -, -, -, -, port, -⟩ := performAll_keeps ops s
  exact port

/-! ### Operations that drive no line -/

/-- From `s` to `t` no line was driven and the sequencer did not move: at most the latches, the port, the draws, the statuses
and the result have changed, and SR has kept its number of bits (10_state.md R26). -/
structure Undriven (s t : State) : Prop where
  cfg : t.cfg = s.cfg := by rfl
  seq : t.seq = s.seq := by rfl
  lines : t.lines = s.lines := by rfl
  trace : t.trace = s.trace := by rfl
  past : t.past = s.past := by rfl
  delivered : s.delivered <+: t.delivered := by exact List.prefix_rfl
  srLength : frameBitsLegal s.cfg.profile = true → s.sr.length = s.cfg.profile.frameBits →
    t.sr.length = s.cfg.profile.frameBits := by exact fun _ h => h

theorem Undriven.refl (s : State) : Undriven s s := {}

theorem Undriven.returns (s : State) (r : Result) : Undriven s (s.returns r) := {}

theorem Undriven.idleWait (s : State) : Undriven s s.idleWait := {}

theorem Undriven.deliver (s : State) (c : Status) (r : Result) : Undriven s ((s.deliver c).returns r) where
  delivered := List.prefix_append _ _

theorem Undriven.encode (s : State) (hours minutes : Int) (r : Result) :
    Undriven s ((s.encode hours minutes).returns r) := {}

/-- SR written with a sequence that has the length of the profile, whatever becomes of the latches of ENCODE. -/
theorem Undriven.expand (s : State) (r : Result) : Undriven s (s.expand.returns r) where
  srLength legal _ := expandBits_length _ legal _

/-- An answer of an operation that starts in `s`: nothing is driven, or micro-operations run, in a phase in which lines may
move, from a state in which only the latches are new. -/
def Runs (s : State) (a : Answer) : Prop :=
  (∃ t, a = .next t ∧ Undriven s t) ∨
  (∃ ops r, a = conclude (runMicro ops r) ∧ Undriven s r ∧ s.linesMayMove = true)

theorem Runs.of_undriven {s t : State} (h : Undriven s t) : Runs s (.next t) := .inl ⟨t, rfl, h⟩

theorem Runs.micro {s r : State} (ops : List MicroOp) (h : Undriven s r) (phase : s.linesMayMove = true) :
    Runs s (conclude (runMicro ops r)) := .inr ⟨ops, r, rfl, h, phase⟩

/-- An operation that is not taken changes nothing (log entries 9 and 10). -/
theorem Runs.when {s : State} {may : Bool} {a : Answer} (h : may = true → Runs s a) : Runs s (s.when may a) := by
  cases may
  · exact .of_undriven (.refl s)
  · exact h rfl

theorem linesMayMove_of_ready {s : State} (h : s.ready = true) : s.linesMayMove = true := by
  simp [State.linesMayMove, (State.ready_iff s).1 h]

theorem linesMayMove_of_replay {s : State} {k : Nat} (h : s.seq = .replay k) : s.linesMayMove = true := by
  simp [State.linesMayMove, h]

theorem linesMayMove_of_atTraceEnd {s : State} (h : s.atTraceEnd = true) : s.linesMayMove = true := by
  unfold State.atTraceEnd at h
  split at h
  · exact linesMayMove_of_replay ‹_›
  all_goals cases h

/-! ### Every operation -/

theorem rejectOpcode_runs (op : Byte) (s : State) : Runs s (rejectOpcode op s) :=
  .when fun _ => .of_undriven (.deliver s _ _)

theorem execSendTime_runs (hours minutes : Int) (s : State) : Runs s (execSendTime hours minutes s) := by
  refine .when fun ready => ?_
  split
  · exact .micro _ { srLength := fun legal _ => expandBits_length _ legal _ } (linesMayMove_of_ready ready)
  · exact .of_undriven (.deliver s _ _)

theorem execSendRaw_runs (symbols : List Byte) (s : State) : Runs s (execSendRaw symbols s) := by
  refine .when fun ready => ?_
  split
  · exact .of_undriven (.deliver s _ _)
  · rename_i long
    split
    · exact .of_undriven (.deliver s _ _)
    · exact .micro _ { srLength := fun _ _ => by simpa [symbolBits] using long } (linesMayMove_of_ready ready)

theorem execTraceEvent_runs (data clock enable : Level) (delay : BitVec 29) (s : State) :
    Runs s (execTraceEvent data clock enable delay s) := by
  unfold execTraceEvent
  split
  · exact .when fun _ => .micro _ (.refl s) (linesMayMove_of_replay ‹_›)
  all_goals exact .of_undriven (.refl s)

theorem execSegfont_runs (digit : Int) (s : State) : Runs s (execSegfont digit s) := by
  unfold execSegfont segfont
  split <;> rename_i h
  · exact .of_undriven (.returns s _)
  · split at h <;> cases h
    exact .of_undriven (.returns s _)

theorem execEncode_runs (hours minutes : Int) (s : State) : Runs s (execEncode hours minutes s) := by
  unfold execEncode
  split
  · exact .of_undriven (.encode s _ _ _)
  · exact .of_undriven (.deliver s _ _)

/-- What every operation can do, in every state. -/
theorem exec_runs (i : Instr) (s : State) : Runs s (exec i s) := by
  match i with
  | .sendTime hours minutes => exact execSendTime_runs hours minutes s
  | .sendRaw symbols => exact execSendRaw_runs symbols s
  | .reserved00 | .reserved03 | .reserved04 _ | .reserved08 _ | .reserved10 _ | .reserved20 _ | .reserved40 _
  | .reserved80 _ => exact rejectOpcode_runs _ s
  | .glyph0 | .glyph1 | .glyph2 | .glyph3 | .glyph4 | .glyph5 | .glyph6 | .glyph7 | .glyph8 | .glyph9
  | .frameRef40 _ _ _ _ _ | .wireW40 _ | .wireW41 _ | .locate _ _ => exact .of_undriven (.returns s _)
  | .statusOk | .statusInvalidInput | .statusInvalidLength | .statusInvalidCharacter | .statusTransportFault
  | .statusInvalidCommand | .statusConfigurationError | .statusInvalidDigit => exact .of_undriven (.deliver s _ _)
  | .traceEvent data clock enable delay => exact execTraceEvent_runs data clock enable delay s
  | .segfont digit => exact execSegfont_runs digit s
  | .encode hours minutes => exact execEncode_runs hours minutes s
  | .expand => exact .of_undriven (.expand s _)
  | .transmit _ =>
    exact .when fun ready =>
      .micro _ { srLength := fun legal _ => expandBits_length _ legal _ } (linesMayMove_of_ready ready)
  | .shiftout => exact .when fun ready => .micro _ (.refl s) (linesMayMove_of_ready ready)
  | .replay => exact .when fun start => .micro _ (.refl s) (linesMayMove_of_replay (by simpa using start))
  | .idleAssert => exact .when fun last => .micro _ (.refl s) (linesMayMove_of_atTraceEnd last)
  | .setline _ _ | .delay _ => exact .when fun phase => .micro _ (.refl s) phase

/-! ### Every step -/

/-- Nothing of what `Runs` speaks of reads the port. -/
theorem Runs.of_port {s : State} {port : List Byte} {a : Answer} (h : Runs { s with port := port } a) : Runs s a := by
  obtain ⟨t, ha, cfg, seq, lines, trace, past, delivered, srLength⟩ |
    ⟨ops, r, ha, ⟨cfg, seq, lines, trace, past, delivered, srLength⟩, phase⟩ := h
  · exact .inl ⟨t, ha, cfg, seq, lines, trace, past, delivered, srLength⟩
  · exact .inr ⟨ops, r, ha, ⟨cfg, seq, lines, trace, past, delivered, srLength⟩, phase⟩

theorem stepReplay_runs (k : Nat) (s : State) (h : s.seq = .replay k) : Runs s (stepReplay k s) := by
  unfold stepReplay
  split
  · exact .micro _ (.refl s) (linesMayMove_of_replay h)
  · exact exec_runs .idleAssert s

theorem stepIdle_runs (s : State) : Runs s (stepIdle s) := by
  unfold stepIdle
  split
  · exact (exec_runs _ _).of_port
  · exact .of_undriven (.idleWait s)

theorem stepTransfer_runs (x : Xfer) (s : State) (h : s.seq = .ready x) : Runs s (stepTransfer x s) :=
  .micro _ (.refl s) (by simp [State.linesMayMove, h])

theorem started_of_ready {s : State} {x : Xfer} (source : s.seq = .ready x) : s.started := by
  simp [State.started, source]

theorem started_of_replay {s : State} {k : Nat} (source : s.seq = .replay k) : s.started := by
  simp [State.started, source]

theorem step_of_reset (s : State) (reset : s.env.head? = some .reset) :
    step s = .next (State.applyReset { s with env := s.env.tail }) := by
  simp [step, State.resetComes, reset]

/-- Everything a step can do: a reset, LOAD, a wait in CONFIG_FAULT, or what an operation can do. -/
theorem step_cases (s : State) :
    (s.env.head? = some .reset ∧ step s = .next (State.applyReset { s with env := s.env.tail })) ∨
    (s.seq = .load ∧ step s = .next s.load) ∨
    (s.seq = .configFault ∧ step s = .next s.idleWait) ∨
    (s.started ∧ Runs s (step s)) := by
  by_cases reset : s.env.head? = some .reset
  · exact .inl ⟨reset, step_of_reset s reset⟩
  · rw [step_without_reset s reset]
    unfold stepSeq
    split <;> rename_i phase
    · exact .inr (.inl ⟨phase, rfl⟩)
    · exact .inr (.inr (.inr ⟨started_of_replay phase, stepReplay_runs _ s phase⟩))
    · exact .inr (.inr (.inr ⟨started_of_ready phase, stepIdle_runs s⟩))
    · exact .inr (.inr (.inr ⟨started_of_ready phase, stepTransfer_runs _ s phase⟩))
    · exact .inr (.inr (.inr ⟨started_of_ready phase, stepTransfer_runs _ s phase⟩))
    · exact .inr (.inr (.inr ⟨started_of_ready phase, stepTransfer_runs _ s phase⟩))
    · exact .inr (.inr (.inl ⟨phase, rfl⟩))

/-- LOAD checks and goes on, or delivers ConfigurationError (60_exceptions.md R306). -/
theorem load_cases (s : State) :
    (setupOk s.cfg = true ∧ s.load = s.goto (.replay 0)) ∨
    (setupOk s.cfg = false ∧ ∃ failed, s.load = s.raise (.configurationError failed)) := by
  unfold State.load setupOk
  split <;> rename_i h
  · exact .inl ⟨by rw [h]; rfl, rfl⟩
  · exact .inr ⟨by simpa using h, _, rfl⟩

/-- LOAD writes no line and no latch, before any line write (60_exceptions.md R306). -/
theorem load_keeps (s : State) :
    s.load.cfg = s.cfg ∧ s.load.lines = s.lines ∧ s.load.trace = s.trace ∧ s.load.sr = s.sr := by
  obtain ⟨-, h⟩ | ⟨-, failed, h⟩ := load_cases s <;> rw [h] <;> exact ⟨rfl, rfl, rfl, rfl⟩

end Sys2Proof.Machine

/-! PROOFS. Out of its phase an operation changes nothing, and CONFIG_FAULT is left by a reset only. -/

namespace Sys2Proof.Machine

theorem when_not_taken {s : State} {may : Bool} (h : may = false) (a : Answer) : s.when may a = .next s := by
  rw [h]
  rfl

theorem atTraceEnd_eq_false (s : State) (h : ∀ k, s.seq = .replay k → k < s.traceLength) : s.atTraceEnd = false := by
  unfold State.atTraceEnd
  split <;> rename_i phase
  · simpa using h _ phase
  all_goals rfl

theorem execTraceEvent_out_of_phase (s : State) (h : ∀ k, s.seq = .replay k → s.traceLength ≤ k)
    (data clock enable : Level) (delay : BitVec 29) : execTraceEvent data clock enable delay s = .next s := by
  unfold execTraceEvent
  split <;> rename_i phase
  · exact when_not_taken (decide_eq_false (Nat.not_lt.2 (h _ phase))) _
  all_goals rfl

/-- Settles O47: each operation stands behind a `when` whose guard is false out of its phase. -/
theorem outOfPhaseOperationsChangeNothing : Obligations.OutOfPhaseOperationsChangeNothing := by
  intro s
  refine ⟨fun h => ⟨when_not_ready s h _, fun _ => when_not_ready s h _⟩,
    fun h => when_not_taken (beq_eq_false_iff_ne.2 h) _, fun h => when_not_taken (atTraceEnd_eq_false s h) _,
    execTraceEvent_out_of_phase s, fun h => ?_⟩
  have guard : s.linesMayMove = false := by obtain h | h := h <;> simp [State.linesMayMove, h]
  exact ⟨fun _ _ => when_not_taken guard _, fun _ => when_not_taken guard _⟩

/-- Settles O52: micro-operations, which alone drive lines and move the sequencer, run in no phase CONFIG_FAULT is. -/
theorem configFaultIsLeftByResetOnly : Obligations.ConfigFaultIsLeftByResetOnly := by
  intro s fault
  refine ⟨fun i t ht => ?_, fun noReset => ?_⟩
  · obtain ⟨u, hu, still⟩ | ⟨ops, r, -, -, phase⟩ := exec_runs i s
    · obtain rfl : u = t := by rw [hu] at ht; cases ht; rfl
      exact ⟨still.seq.trans fault, still.lines, still.trace⟩
    · simp [State.linesMayMove, fault] at phase
  · have waits : stepSeq s = .next s.idleWait := by simp [stepSeq, fault]
    exact (step_without_reset s noReset).trans waits

end Sys2Proof.Machine

/-! PROOFS. Each line follows the trace: micro-operations write a line and its event together, and nothing else writes either
(10_state.md R21, 00_scope.md R15). -/

namespace Sys2Proof.Machine

theorem LinesFollowTrace.congr {s t : State} (h : LinesFollowTrace s) (lines : t.lines = s.lines)
    (trace : t.trace = s.trace) : LinesFollowTrace t := by
  intro id v hv
  rw [lines]
  exact h id v (trace ▸ hv)

/-- Before the first event of a trace every line is unspecified (70_reset_and_hazards.md R341). -/
theorem LinesFollowTrace.of_empty {s : State} (h : s.trace = []) : LinesFollowTrace s := by
  intro id v hv
  simp [h, lastWrite] at hv

theorem LinesFollowTrace.performAll {s : State} (h : LinesFollowTrace s) (ops : List MicroOp) :
    LinesFollowTrace (performAll ops s) := by
  intro id v hv
  rw [performAll_trace, lastWrite_append] at hv
  rw [performAll_lines]
  cases written : lastWrite id (opsTrace ops) with
  | none => exact h id v (by simpa [written] using hv)
  | some w => simpa [written] using hv

theorem LinesFollowTrace.conclude {s t : State} (h : LinesFollowTrace s) (ops : List MicroOp)
    (ht : conclude (runMicro ops s) = .next t) : LinesFollowTrace t := by
  obtain ⟨done, rest, n, -, outcome⟩ := conclude_cases ops s
  have before : LinesFollowTrace (Machine.performAll done (s.afterDraws n)) :=
    LinesFollowTrace.performAll (s := s.afterDraws n) (h.congr rfl rfl) done
  obtain ⟨-, ha⟩ | ⟨id, v, -, -, -, ha⟩ | ⟨-, -, ha⟩ := outcome <;> rw [ha] at ht <;> cases ht
  · exact before.congr rfl rfl
  · exact before.congr rfl rfl
  · exact .of_empty rfl

/-- Settles O57, by the four things a step can do (`step_cases`). -/
theorem stepKeepsLinesFollowTrace : Obligations.StepKeepsLinesFollowTrace := by
  intro s t h ht
  obtain ⟨-, hs⟩ | ⟨-, hs⟩ | ⟨-, hs⟩ | ⟨-, ⟨u, hs, still⟩ | ⟨ops, r, hs, still, -⟩⟩ := step_cases s <;> rw [hs] at ht
  · cases ht
    exact .of_empty rfl
  · cases ht
    obtain ⟨-, lines, trace, -⟩ := load_keeps s
    exact h.congr lines trace
  · cases ht
    exact h.congr rfl rfl
  · cases ht
    exact h.congr still.lines still.trace
  · exact (h.congr still.lines still.trace).conclude ops ht

end Sys2Proof.Machine

/-! PROOFS. The state at reset release meets the invariants (10_state.md R45). -/

namespace Sys2Proof.Machine

/-- In LOAD every clause that names another phase is vacuous, and SR has the length of the profile. -/
theorem sequencerSound_atReset (cfg : Setup) (past : List RunRecord) (port : List Byte) (env : List Draw) :
    SequencerSound (State.atReset cfg past port env) where
  setup started := absurd rfl started.1
  replayIndex _ h := nomatch h
  bitIndex _ h := nomatch h
  srLength := by simp [State.atReset, unspecifiedSr]

theorem atReset_meets_invariants (cfg : Setup) (past : List RunRecord) (port : List Byte) (env : List Draw) :
    let s := State.atReset cfg past port env
    SequencerSound s ∧ IdleHigh s ∧ OutputSound s ∧ LinesFollowTrace s := by
  have sound := sequencerSound_atReset cfg past port env
  refine ⟨sound, ?idle, ?output, .of_empty rfl⟩
  case idle => exact ⟨sound, fun h => (nomatch h), fun h => (nomatch h)⟩
  case output => exact ⟨sound, fun _ => ⟨rfl, rfl⟩, fun _ h => (nomatch h), fun _ h => (nomatch h), fun h => (nomatch h)⟩

/-- Settles O53: `State.reset` is the reset state of the installed configuration. -/
theorem resetMeetsTheInvariants : Obligations.ResetMeetsTheInvariants :=
  ⟨atReset_meets_invariants, atReset_meets_invariants _ _ _ _, rfl, rfl, rfl⟩

end Sys2Proof.Machine

/-! PROOFS. The levels of the lines are written, never read (10_state.md R21). -/

namespace Sys2Proof.Machine

/-- Two answers are next states that differ in the line levels alone. -/
def AgreeButLines (a b : Answer) : Prop :=
  ∃ t t', a = .next t ∧ b = .next t' ∧ t' = { t with lines := t'.lines }

/-- The same state with other line levels. -/
def State.withLines (s : State) (l : Lines) : State := { s with lines := l }

theorem AgreeButLines.next (t : State) (l : Lines) : AgreeButLines (.next t) (.next (t.withLines l)) :=
  ⟨t, t.withLines l, rfl, rfl, rfl⟩

theorem AgreeButLines.when {s : State} {l : Lines} {a b : Answer} (may : Bool) (h : AgreeButLines a b) :
    AgreeButLines (s.when may a) ((s.withLines l).when may b) := by
  cases may
  · exact .next s l
  · exact h

theorem AgreeButLines.ite {c : Prop} [Decidable c] {a b a' b' : Answer} (pos : c → AgreeButLines a b)
    (neg : ¬c → AgreeButLines a' b') : AgreeButLines (if c then a else a') (if c then b else b') := by
  by_cases h : c
  · simpa only [if_pos h] using pos h
  · simpa only [if_neg h] using neg h

/-- A micro-operation goes through from other levels too, or is stopped for the same reason. -/
theorem attempt_withLines (op : MicroOp) (s : State) (l : Lines) : ∃ r l',
    (attempt op s = .go r ∧ attempt op (s.withLines l) = .go (r.withLines l')) ∨
    (∃ why, attempt op s = .stop r why ∧ attempt op (s.withLines l) = .stop (r.withLines l') why) := by
  rcases s with ⟨⟨profile, asset, tick, canFail⟩, seq, lines, frame, sr, ht, ho, mt, mo, delivered, trace, port, env,
    result, faulted, past⟩
  cases op with
  | goto q => exact ⟨_, l, .inl ⟨rfl, rfl⟩⟩
  | complete => exact ⟨_, l, .inl ⟨rfl, rfl⟩⟩
  | delay t =>
    rcases env with _ | ⟨_ | _ | _, rest⟩
    · exact ⟨_, l, .inl ⟨rfl, rfl⟩⟩
    · exact ⟨_, l, .inl ⟨rfl, rfl⟩⟩
    · exact ⟨_, l, .inl ⟨rfl, rfl⟩⟩
    · exact ⟨_, l, .inr ⟨.reset, rfl, rfl⟩⟩
  | setline id v =>
    rcases env with _ | ⟨_ | _ | _, rest⟩
    · exact ⟨_, l.set id v, .inl ⟨rfl, rfl⟩⟩
    · exact ⟨_, l.set id v, .inl ⟨rfl, rfl⟩⟩
    · cases canFail
      · exact ⟨_, l.set id v, .inl ⟨rfl, rfl⟩⟩
      · exact ⟨_, l, .inr ⟨.writeFailed id v, rfl, rfl⟩⟩
    · exact ⟨_, l, .inr ⟨.reset, rfl, rfl⟩⟩

/-- How an operation made of micro-operations concludes does not depend on the levels it starts from. -/
theorem AgreeButLines.micro (ops : List MicroOp) (s : State) (l : Lines) :
    AgreeButLines (conclude (runMicro ops s)) (conclude (runMicro ops (s.withLines l))) := by
  induction ops generalizing s l with
  | nil => exact .next (s.returns .done) l
  | cons op ops ih =>
    obtain ⟨r, l', ⟨h, h'⟩ | ⟨why, h, h'⟩⟩ := attempt_withLines op s l <;> simp only [runMicro, h, h']
    · exact ih r l'
    · cases why with
      | writeFailed id v => exact .next (r.raise (.transportFault id v)) l'
      | reset => exact ⟨_, _, rfl, rfl, rfl⟩

theorem execSendTime_withLines (hours minutes : Int) (s : State) (l : Lines) :
    AgreeButLines (execSendTime hours minutes s) (execSendTime hours minutes (s.withLines l)) :=
  .when s.ready (.ite (fun _ => .micro _ _ l) (fun _ => .next _ l))

theorem execSendRaw_withLines (symbols : List Byte) (s : State) (l : Lines) :
    AgreeButLines (execSendRaw symbols s) (execSendRaw symbols (s.withLines l)) := by
  refine .when s.ready (.ite (fun _ => .next _ l) (fun _ => ?_))
  cases firstBadSymbol 0 symbols with
  | some bad => exact .next _ l
  | none => exact .micro _ _ l

theorem execTraceEvent_withLines (data clock enable : Level) (delay : BitVec 29) (s : State) (l : Lines) :
    AgreeButLines (execTraceEvent data clock enable delay s) (execTraceEvent data clock enable delay (s.withLines l)) := by
  rcases s with ⟨cfg, seq, lines, frame, sr, ht, ho, mt, mo, delivered, trace, port, env, result, faulted, past⟩
  cases seq with
  | replay k => exact .when _ (.micro _ _ l)
  | load => exact .next _ l
  | ready x => exact .next _ l
  | configFault => exact .next _ l

theorem execSegfont_withLines (digit : Int) (s : State) (l : Lines) :
    AgreeButLines (execSegfont digit s) (execSegfont digit (s.withLines l)) := by
  unfold execSegfont
  cases found : segfont digit with
  | ok m => exact .next _ l
  | error c =>
    cases c <;> exact .next _ l

theorem exec_withLines (i : Instr) (s : State) (l : Lines) : AgreeButLines (exec i s) (exec i (s.withLines l)) := by
  match i with
  | .sendTime hours minutes => exact execSendTime_withLines hours minutes s l
  | .sendRaw symbols => exact execSendRaw_withLines symbols s l
  | .reserved00 | .reserved03 | .reserved04 _ | .reserved08 _ | .reserved10 _ | .reserved20 _ | .reserved40 _
  | .reserved80 _ => exact .when s.ready (.next _ l)
  | .glyph0 | .glyph1 | .glyph2 | .glyph3 | .glyph4 | .glyph5 | .glyph6 | .glyph7 | .glyph8 | .glyph9
  | .frameRef40 _ _ _ _ _ | .wireW40 _ | .wireW41 _ | .locate _ _ | .expand => exact .next _ l
  | .statusOk | .statusInvalidInput | .statusInvalidLength | .statusInvalidCharacter | .statusTransportFault
  | .statusInvalidCommand | .statusConfigurationError | .statusInvalidDigit => exact .next _ l
  | .traceEvent data clock enable delay => exact execTraceEvent_withLines data clock enable delay s l
  | .segfont digit => exact execSegfont_withLines digit s l
  | .encode hours minutes => exact .ite (fun _ => .next _ l) (fun _ => .next _ l)
  | .transmit _ => exact .when s.ready (.micro _ _ l)
  | .shiftout => exact .when s.ready (.micro _ _ l)
  | .replay => exact .when (s.seq == .replay 0) (.micro _ _ l)
  | .idleAssert => exact .when s.atTraceEnd (.micro _ _ l)
  | .setline _ _ | .delay _ => exact .when s.linesMayMove (.micro _ _ l)

theorem load_withLines (s : State) (l : Lines) : (s.withLines l).load = s.load.withLines l := by
  have same : (s.withLines l).cfg = s.cfg := rfl
  unfold State.load
  rw [same]
  cases setupFailures s.cfg <;> rfl

theorem stepReplay_withLines (k : Nat) (s : State) (l : Lines) :
    AgreeButLines (stepReplay k s) (stepReplay k (s.withLines l)) := by
  have same : (s.withLines l).traceEvent k = s.traceEvent k := rfl
  unfold stepReplay
  rw [same]
  cases s.traceEvent k with
  | some e => exact .micro _ s l
  | none => exact exec_withLines .idleAssert s l

theorem stepIdle_withLines (s : State) (l : Lines) : AgreeButLines (stepIdle s) (stepIdle (s.withLines l)) := by
  have same : (s.withLines l).port = s.port := rfl
  unfold stepIdle
  rw [same]
  cases decodeCommand s.port with
  | ok command => exact exec_withLines command.1 { s with port := command.2 } l
  | error e => exact .next _ l

theorem stepSeq_withLines (s : State) (l : Lines) : AgreeButLines (stepSeq s) (stepSeq (s.withLines l)) := by
  have same : (s.withLines l).seq = s.seq := rfl
  unfold stepSeq
  rw [same]
  cases s.seq with
  | load =>
    show AgreeButLines (.next s.load) (.next (s.withLines l).load)
    rw [load_withLines]
    exact .next _ l
  | replay k => exact stepReplay_withLines k s l
  | ready x =>
    cases x with
    | idle => exact stepIdle_withLines s l
    | asserting => exact .micro _ s l
    | shifting i => exact .micro _ s l
    | deasserting => exact .micro _ s l
  | configFault => exact .next _ l

/-- Settles O51, operation by operation and phase by phase; after a reset the levels are not even kept. -/
theorem lineLevelsAreNeverRead : Obligations.LineLevelsAreNeverRead := by
  intro s l
  refine ⟨fun i => exec_withLines i s l, ?_⟩
  show AgreeButLines (step s) (step (s.withLines l))
  exact .ite (fun _ => ⟨_, _, rfl, rfl, rfl⟩) (fun _ => stepSeq_withLines s l)

end Sys2Proof.Machine

/-! PROOFS. The moves of the sequencer: every phase is a run of micro-operations that ends in one transition, so that it either
puts out the whole of its events and makes the transition, or is cut short by a failed write, or by a reset
(10_state.md R25, 60_exceptions.md R305, 70_reset_and_hazards.md R344). -/

namespace Sys2Proof.Machine

/-! ### How a phase ends -/

/-- A part of a phase: it neither completes nor leaves the side, startup or transfer, that decides where a failed write leads
(60_exceptions.md R305, R307). -/
def StaysOn (q : Seq) (ops : List MicroOp) : Prop :=
  ∀ op ∈ ops, op ≠ .complete ∧ ∀ q', op = .goto q' → seqAfterFault q' = seqAfterFault q

theorem performAll_staysOn (ops : List MicroOp) (s : State) (h : StaysOn s.seq ops) :
    seqAfterFault (performAll ops s).seq = seqAfterFault s.seq ∧ (performAll ops s).delivered = s.delivered := by
  refine ⟨?_, (performAll_status ops s fun mem => (h _ mem).1 rfl).1⟩
  induction ops generalizing s with
  | nil => rfl
  | cons op ops ih =>
    have side : seqAfterFault (op.perform s).seq = seqAfterFault s.seq := by
      cases op with
      | setline id v => rfl
      | delay t => rfl
      | goto q => exact (h _ List.mem_cons_self).2 q rfl
      | complete => exact absurd rfl (h _ List.mem_cons_self).1
    rw [performAll_cons, ih _ fun o mem => ?_, side]
    rw [side]
    exact h o (List.mem_cons_of_mem _ mem)

/-- The run from `s` to `t` of a phase that puts out `full` and ends with the transition `last`. -/
def PhaseEnds (s t : State) (full : List Event) (last : MicroOp) : Prop :=
  (t.trace = s.trace ++ full ∧ t.seq = (last.perform s).seq ∧ t.delivered = (last.perform s).delivered) ∨
  (WriteFailed s t full ∧ t.seq = seqAfterFault s.seq) ∨
  (Draw.reset ∈ s.env ∧ (∃ r, t.past = s.past ++ [r]) ∧ t.seq = .load)

/-- Where a transition leads and what it delivers does not depend on what went out before it. -/
theorem perform_transition {last : MicroOp} (silent : opTrace last = []) {s r : State} (told : r.delivered = s.delivered) :
    (last.perform r).seq = (last.perform s).seq ∧ (last.perform r).delivered = (last.perform s).delivered := by
  cases last with
  | setline id v => cases silent
  | delay t => cases silent
  | goto q => exact ⟨rfl, told⟩
  | complete => exact ⟨rfl, congrArg (· ++ [Status.ok]) told⟩

/-- A write that fails stands before the transition, since the transition writes no line. -/
theorem write_before_transition {body done rest : List MicroOp} {last : MicroOp} {id : Line} {v : Level}
    (split : body ++ [last] = done ++ rest) (head : rest.head? = some (.setline id v)) (silent : opTrace last = []) :
    ∃ rest', body = done ++ rest' ∧ rest'.head? = some (.setline id v) := by
  obtain ⟨more, hdone, hlast⟩ | ⟨rest', hbody, hrest⟩ := List.append_eq_append_iff.1 split
  · obtain ⟨rfl, hr⟩ | ⟨-, rfl⟩ := List.singleton_eq_append_iff.1 hlast
    · rw [hr, List.head?_cons] at head
      cases head
      cases silent
    · cases head
  · refine ⟨rest', hbody, ?_⟩
    cases rest' with
    | nil =>
      rw [hrest] at head
      cases head
      cases silent
    | cons op ops => rwa [hrest] at head

theorem conclude_phaseEnds {body : List MicroOp} {last : MicroOp} {s t : State} (stays : StaysOn s.seq body)
    (silent : opTrace last = []) (h : conclude (runMicro (body ++ [last]) s) = .next t) :
    PhaseEnds s t (opsTrace body) last := by
  obtain ⟨done, rest, n, split, outcome⟩ := conclude_cases (body ++ [last]) s
  have trace : (performAll done (s.afterDraws n)).trace = s.trace ++ opsTrace done := performAll_trace done _
  have past : (performAll done (s.afterDraws n)).past = s.past := performAll_past done _
  obtain ⟨hrest, ha⟩ | ⟨id, v, head, draw, canFail, ha⟩ | ⟨-, came, ha⟩ := outcome <;> rw [ha] at h <;> cases h
  · obtain rfl : done = body ++ [last] := by simpa [hrest] using split.symm
    have told := (performAll_staysOn body (s.afterDraws n) stays).2
    obtain ⟨target, delivers⟩ := perform_transition silent (s := s) told
    refine .inl ⟨?_, ?_, ?_⟩
    · rw [State.returns_trace, trace, opsTrace_append, opsTrace_cons, silent]
      simp
    · simpa [performAll_append] using target
    · simpa [performAll_append] using delivers
  · obtain ⟨rest', rfl, head'⟩ := write_before_transition split head silent
    have part : StaysOn s.seq done := fun op mem => stays op (List.mem_append_left _ mem)
    obtain ⟨side, told⟩ := performAll_staysOn done (s.afterDraws n) part
    refine .inr (.inl ⟨⟨canFail, ?_, opsTrace done, id, v, ?_, draw, trace⟩, side⟩)
    · exact congrArg (· ++ [Status.transportFault]) told
    · exact opsTrace_up_to_write done rest' id v head'
  · exact .inr (.inr ⟨came, ⟨_, by rw [State.applyReset_past, past]⟩, rfl⟩)

/-! ### The phases -/

theorem opsTrace_eventOps (e : ReplayEvent) : opsTrace (eventOps e) = eventTrace e := by
  unfold eventOps eventTrace
  split <;> rfl

theorem staysOn_eventOps (q : Seq) (e : ReplayEvent) : StaysOn q (eventOps e) := by
  unfold eventOps
  split <;> simp [StaysOn]

/-- What SHIFTOUT does before it completes. -/
def shiftoutBody (p : Profile) (bit : Nat → Bool) : List MicroOp :=
  .goto (.ready .asserting) :: (.asserting :: (List.range p.frameBits).map Xfer.shifting).flatMap (segmentOps p bit) ++
    bodyOps p.timing bit .deasserting

theorem shiftoutOps_eq (p : Profile) (bit : Nat → Bool) : shiftoutOps p bit = shiftoutBody p bit ++ [.complete] := by
  simp [shiftoutOps, shiftoutBody, transferStates, segmentOps, advanceOp]

theorem opsTrace_shiftoutBody (p : Profile) (bit : Nat → Bool) :
    opsTrace (shiftoutBody p bit) = transferTrace p.timing ((List.range p.frameBits).map bit) := by
  rw [← opsTrace_shiftout, shiftoutOps_eq, opsTrace_append]
  simp [opTrace]

theorem staysOn_bodyOps (q : Seq) (t : Timing) (bit : Nat → Bool) (x : Xfer) : StaysOn q (bodyOps t bit x) := by
  cases x <;> simp [StaysOn, bodyOps, cellOps]

/-- Within a transfer the sequencer stays in READY (10_state.md R25). -/
theorem staysOn_segmentOps (x y : Xfer) (p : Profile) (bit : Nat → Bool) (h : y ≠ .deasserting) :
    StaysOn (.ready x) (segmentOps p bit y) := by
  refine List.forall_mem_append.2 ⟨staysOn_bodyOps _ _ _ y, ?_⟩
  cases y with
  | deasserting => exact absurd rfl h
  | idle => simp [advanceOp]
  | asserting => simp [advanceOp, seqAfterFault]
  | shifting i => simp [advanceOp, seqAfterFault]

theorem staysOn_shiftoutBody (x : Xfer) (p : Profile) (bit : Nat → Bool) : StaysOn (.ready x) (shiftoutBody p bit) := by
  refine List.forall_mem_append.2 ⟨List.forall_mem_cons.2 ⟨by simp [seqAfterFault], fun op mem => ?_⟩,
    staysOn_bodyOps _ _ _ .deasserting⟩
  obtain ⟨y, hy, mem⟩ := List.mem_flatMap.1 mem
  refine staysOn_segmentOps x y p bit ?_ op mem
  rintro rfl
  simp at hy

/-- SR as a transfer sends it, when it has its full length (10_state.md R26). -/
theorem shiftBits_eq_sr (s : State) (full : s.sr.length = s.cfg.profile.frameBits) : s.shiftBits = s.sr := by
  apply List.ext_getElem
  · simp [State.shiftBits, full]
  · intro i _ hi
    simp [State.shiftBits, State.srBit, hi]

theorem shiftout_phaseEnds {s t : State} {x : Xfer} (h : conclude (shiftoutMicro s) = .next t) (source : s.seq = .ready x)
    (full : s.sr.length = s.cfg.profile.frameBits) :
    PhaseEnds s t (transferTrace s.cfg.profile.timing s.sr) .complete := by
  rw [← shiftBits_eq_sr s full, State.shiftBits, ← opsTrace_shiftoutBody]
  rw [shiftoutMicro, shiftoutOps_eq] at h
  exact conclude_phaseEnds (source ▸ staysOn_shiftoutBody x _ _) rfl h

theorem conclude_keeps_port (ops : List MicroOp) (s t : State) (h : conclude (runMicro ops s) = .next t) :
    t.port = s.port := by
  obtain ⟨done, rest, n, -, outcome⟩ := conclude_cases ops s
  have port : (performAll done (s.afterDraws n)).port = s.port := performAll_port done _
  obtain ⟨-, ha⟩ | ⟨id, v, -, -, -, ha⟩ | ⟨-, -, ha⟩ := outcome <;> rw [ha] at h <;> cases h <;> exact port

/-! ### The moves -/

theorem load_moves (s : State) (source : s.seq = .load) : LegalMove s s.load := by
  obtain ⟨check, h⟩ | ⟨check, failed, h⟩ := load_cases s <;> rw [h]
  · exact .loadPasses source rfl check rfl rfl
  · exact .loadFails source rfl check rfl rfl

/-- Behind the last event of the trace, k is N (10_state.md R24). -/
theorem replay_at_end {s : State} {k : Nat} (sound : SequencerSound s) (source : s.seq = .replay k)
    (behind : s.traceEvent k = none) : k = s.traceLength :=
  Nat.le_antisymm (sound.replayIndex k source) (List.getElem?_eq_none_iff.1 behind)

theorem idleAssert_moves {s t : State} {k : Nat} (sound : SequencerSound s) (source : s.seq = .replay k)
    (behind : s.traceEvent k = none) (h : exec .idleAssert s = .next t) : LegalMove s t := by
  have kN : k = s.traceLength := replay_at_end sound source behind
  have phase : s.atTraceEnd = true := by simp [State.atTraceEnd, source, kN]
  have body : StaysOn s.seq [.setline .data true, .setline .clk true, .setline .en true] := by simp [StaysOn]
  change s.when s.atTraceEnd _ = _ at h
  rw [phase] at h
  obtain ⟨out, target, told⟩ | ⟨failed, target⟩ | ⟨came, ended, target⟩ :=
    conclude_phaseEnds (last := .complete) body rfl h
  · exact .startupDone (kN ▸ source) target out told
  · have full : s.startupTrace k = idleAssertTrace := by simp [State.startupTrace, behind]
    exact .startupFault k source (by rw [target, source]; rfl) (full ▸ failed)
  · exact .reset came ended target

theorem stepReplay_moves {s t : State} {k : Nat} (sound : SequencerSound s) (source : s.seq = .replay k)
    (h : stepReplay k s = .next t) : LegalMove s t := by
  unfold stepReplay at h
  split at h
  · rename_i e applied
    obtain ⟨out, target, told⟩ | ⟨failed, target⟩ | ⟨came, ended, target⟩ :=
      conclude_phaseEnds (staysOn_eventOps _ e) rfl h
    · exact .event k e source target applied (opsTrace_eventOps e ▸ out) told
    · have full : s.startupTrace k = opsTrace (eventOps e) := by
        simp [State.startupTrace, applied, opsTrace_eventOps]
      exact .startupFault k source (by rw [target, source]; rfl) (full ▸ failed)
    · exact .reset came ended target
  · rename_i behind
    exact idleAssert_moves sound source behind h

theorem stepTransfer_phaseEnds {s t : State} {x : Xfer} {last : MicroOp}
    (transition : advanceOp s.cfg.profile.frameBits x = [last]) (silent : opTrace last = [])
    (h : stepTransfer x s = .next t) : PhaseEnds s t (s.transferPart x) last := by
  have part : s.transferPart x = opsTrace (bodyOps s.cfg.profile.timing s.srBit x) := by cases x <;> rfl
  rw [stepTransfer, segmentOps, transition] at h
  exact part ▸ conclude_phaseEnds (staysOn_bodyOps _ _ _ x) silent h

/-- A transfer state that is cut short, or ends as `finishes` says. -/
theorem transferState_moves {s t : State} {x : Xfer} {last : MicroOp} (inside : x ≠ .idle) (source : s.seq = .ready x)
    (ends : PhaseEnds s t (s.transferPart x) last)
    (finishes : t.trace = s.trace ++ s.transferPart x → t.seq = (last.perform s).seq →
      t.delivered = (last.perform s).delivered → LegalMove s t) : LegalMove s t := by
  obtain ⟨out, target, told⟩ | ⟨failed, target⟩ | ⟨came, ended, target⟩ := ends
  · exact finishes out target told
  · exact .transferFault x inside source (by rw [target, source]; rfl) failed
  · exact .reset came ended target

/-- LOAD passes exactly when the profile does and nothing is wrong with the trace (60_exceptions.md R306). -/
theorem setupOk_iff (c : Setup) :
    setupOk c = true ↔ profileOk c.profile = true ∧ assetFailures c.traceTick c.asset = [] := by
  simp [setupOk, setupFailures, profileOk]

theorem frameBitsLegal_of_started {s : State} (sound : SequencerSound s) (started : s.started) :
    frameBitsLegal s.cfg.profile = true := by
  obtain ⟨profile, -⟩ := (setupOk_iff s.cfg).1 (sound.setup started)
  obtain ⟨-, -, -, -, -, frameBits, -⟩ := (profileOk_iff s.cfg.profile).1 profile
  exact frameBits

theorem frameBits_pos_of_started {s : State} (sound : SequencerSound s) (started : s.started) :
    0 < s.cfg.profile.frameBits := by
  have legal := frameBitsLegal_of_started sound started
  simp only [frameBitsLegal, Bool.or_eq_true, decide_eq_true_eq] at legal
  omega

theorem asserting_moves {s t : State} (sound : SequencerSound s) (source : s.seq = .ready .asserting)
    (h : stepTransfer .asserting s = .next t) : LegalMove s t := by
  refine transferState_moves (by simp) source (stepTransfer_phaseEnds rfl rfl h) fun out target told => ?_
  have first : cellOrEnd s.cfg.profile.frameBits 0 = .shifting 0 :=
    if_pos (frameBits_pos_of_started sound (started_of_ready source))
  exact .asserted source (by rw [target, ← first]; rfl) out told

theorem shifting_moves {s t : State} {i : Nat} (sound : SequencerSound s) (source : s.seq = .ready (.shifting i))
    (h : stepTransfer (.shifting i) s = .next t) : LegalMove s t := by
  refine transferState_moves (by simp) source (stepTransfer_phaseEnds rfl rfl h) fun out target told => ?_
  by_cases more : i + 1 < s.cfg.profile.frameBits
  · have next : cellOrEnd s.cfg.profile.frameBits (i + 1) = .shifting (i + 1) := if_pos more
    exact .bit i source more (by rw [target, ← next]; rfl) out told
  · have finished : cellOrEnd s.cfg.profile.frameBits (i + 1) = .deasserting := if_neg more
    have last : i + 1 = s.cfg.profile.frameBits := by have := sound.bitIndex i source; omega
    exact .lastBit i source last (by rw [target, ← finished]; rfl) out told

theorem deasserting_moves {s t : State} (source : s.seq = .ready .deasserting)
    (h : stepTransfer .deasserting s = .next t) : LegalMove s t :=
  transferState_moves (by simp) source (stepTransfer_phaseEnds rfl rfl h) fun out target told =>
    .deasserted source target out told

/-! ### The commands -/

/-- A reserved opcode is an instruction whose one byte the block rejects (45_driver_commands.md R268). -/
theorem reservedOf_rejects (op : Byte) : ∃ op', encodeCommand (reservedOf op) = some [op'] ∧
    ∀ s, exec (reservedOf op) s = rejectOpcode op' s := by
  unfold reservedOf
  split_ifs <;> exact ⟨_, rfl, fun _ => rfl⟩

/-- What the decoder reads is SEND_TIME, SEND_RAW or a reserved opcode (30_encoding.md R95). -/
theorem decodeCommand_reads {bytes rest : List Byte} {i : Instr} (h : decodeCommand bytes = .ok (i, rest)) :
    (∃ hours minutes, i = .sendTime hours minutes) ∨ (∃ symbols, i = .sendRaw symbols) ∨ (∃ op, i = reservedOf op) := by
  cases bytes with
  | nil => cases h
  | cons op bytes =>
    rw [decodeCommand] at h
    split_ifs at h
    · unfold decodeTime at h
      split at h <;> cases h
      exact .inl ⟨_, _, rfl⟩
    · unfold decodeRaw at h
      split at h
      · split_ifs at h
        cases h
        exact .inr (.inl ⟨_, rfl⟩)
      · cases h
    · cases h
      exact .inr (.inr ⟨op, rfl⟩)

/-! What a command that is taken in READY(Idle) comes to, by its checks (45_driver_commands.md R261, R263 to R265). -/

theorem sendTime_sends {s : State} (ready : s.seq = .ready .idle) {hours minutes : Int}
    (good : timeInRange hours minutes = true) :
    exec (.sendTime hours minutes) s = conclude (shiftoutMicro (s.encode hours minutes).expand) :=
  (when_ready s ready _).trans (if_pos good)

theorem sendTime_rejects {s : State} (ready : s.seq = .ready .idle) {hours minutes : Int}
    (bad : timeInRange hours minutes = false) :
    exec (.sendTime hours minutes) s = .next (s.raise (.invalidInput hours minutes)) :=
  (when_ready s ready _).trans (if_neg (by simp [bad]))

theorem sendRaw_rejects_length {s : State} (ready : s.seq = .ready .idle) {symbols : List Byte}
    (bad : symbols.length ≠ s.cfg.profile.frameBits) :
    exec (.sendRaw symbols) s = .next (s.raise (.invalidLength symbols.length)) :=
  (when_ready s ready _).trans (if_pos bad)

theorem sendRaw_rejects_character {s : State} (ready : s.seq = .ready .idle) {symbols : List Byte} {n : Nat} {b : Byte}
    (long : symbols.length = s.cfg.profile.frameBits) (bad : firstBadSymbol 0 symbols = some (n, b)) :
    exec (.sendRaw symbols) s = .next (s.raise (.invalidCharacter n b)) :=
  (when_ready s ready _).trans ((if_neg (by simp [long])).trans (by rw [bad]))

theorem sendRaw_sends {s : State} (ready : s.seq = .ready .idle) {symbols : List Byte}
    (long : symbols.length = s.cfg.profile.frameBits) (good : firstBadSymbol 0 symbols = none) :
    exec (.sendRaw symbols) s = conclude (shiftoutMicro { s with sr := symbolBits symbols }) :=
  (when_ready s ready _).trans ((if_neg (by simp [long])).trans (by rw [good]))

theorem rejectOpcode_of_ready {s : State} (ready : s.seq = .ready .idle) (op : Byte) :
    rejectOpcode op s = .next (s.raise (.invalidCommand op)) := when_ready s ready _

theorem transfer_moves {s t : State} {i : Instr} {bits : List Bool} (source : s.seq = .ready .idle)
    (taken : decodeCommand s.port = .ok (i, t.port)) (sends : Sends s.cfg.profile i bits)
    (ends : PhaseEnds s t (transferTrace s.cfg.profile.timing bits) .complete) : LegalMove s t := by
  obtain ⟨out, target, told⟩ | ⟨failed, target⟩ | ⟨came, ended, target⟩ := ends
  · exact .transferred i bits source target taken sends out told
  · exact .commandFault i bits source (by rw [target, source]; rfl) taken sends failed
  · exact .reset came ended target

theorem sendTime_moves {s t : State} {rest : List Byte} {hours minutes : Int}
    (legal : frameBitsLegal s.cfg.profile = true) (source : s.seq = .ready .idle)
    (taken : decodeCommand s.port = .ok (.sendTime hours minutes, rest))
    (h : exec (.sendTime hours minutes) { s with port := rest } = .next t) : LegalMove s t := by
  cases good : timeInRange hours minutes
  · rw [sendTime_rejects (s := { s with port := rest }) source good] at h
    cases h
    exact .rejected _ _ _ source taken (.input hours minutes good) rfl
  · rw [sendTime_sends (s := { s with port := rest }) source good] at h
    obtain rfl : t.port = rest := conclude_keeps_port _ _ _ h
    exact transfer_moves source taken (.time hours minutes good)
      (shiftout_phaseEnds h source (expandBits_length _ legal _))

theorem sendRaw_moves {s t : State} {rest symbols : List Byte} (source : s.seq = .ready .idle)
    (taken : decodeCommand s.port = .ok (.sendRaw symbols, rest))
    (h : exec (.sendRaw symbols) { s with port := rest } = .next t) : LegalMove s t := by
  by_cases long : symbols.length = s.cfg.profile.frameBits
  · cases bad : firstBadSymbol 0 symbols with
    | some symbol =>
      rw [sendRaw_rejects_character (s := { s with port := rest }) source long bad] at h
      cases h
      exact .rejected _ _ _ source taken (.character symbols _ _ long bad) rfl
    | none =>
      rw [sendRaw_sends (s := { s with port := rest }) source long bad] at h
      obtain rfl : t.port = rest := conclude_keeps_port _ _ _ h
      exact transfer_moves source taken (.raw symbols long bad)
        (shiftout_phaseEnds h source (by simpa [symbolBits] using long))
  · rw [sendRaw_rejects_length (s := { s with port := rest }) source long] at h
    cases h
    exact .rejected _ _ _ source taken (.length symbols long) rfl

theorem reserved_moves {s t : State} {rest : List Byte} {op : Byte} (source : s.seq = .ready .idle)
    (taken : decodeCommand s.port = .ok (reservedOf op, rest))
    (h : exec (reservedOf op) { s with port := rest } = .next t) : LegalMove s t := by
  obtain ⟨op', code, rejects⟩ := reservedOf_rejects op
  rw [rejects, rejectOpcode_of_ready (s := { s with port := rest }) source] at h
  cases h
  exact .rejected _ _ _ source taken (.opcode _ op' code) rfl

theorem stepIdle_moves {s t : State} (sound : SequencerSound s) (source : s.seq = .ready .idle)
    (h : stepIdle s = .next t) : LegalMove s t := by
  unfold stepIdle at h
  split at h
  · rename_i i rest taken
    obtain ⟨hours, minutes, rfl⟩ | ⟨symbols, rfl⟩ | ⟨op, rfl⟩ := decodeCommand_reads taken
    · exact sendTime_moves (frameBitsLegal_of_started sound (started_of_ready source)) source taken h
    · exact sendRaw_moves source taken h
    · exact reserved_moves source taken h
  · cases h
    exact .waits _ source ‹_› rfl

/-- Settles O58, phase by phase: each `_moves` lemma above is one row of R25. -/
theorem sequencerMovesLegally : Obligations.SequencerMovesLegally := by
  intro s t sound h
  by_cases reset : s.env.head? = some .reset
  · rw [step_of_reset s reset] at h
    cases h
    exact .reset (List.mem_of_head? reset) ⟨_, rfl⟩ rfl
  · rw [step_without_reset s reset] at h
    unfold stepSeq at h
    split at h <;> rename_i source
    · cases h
      exact load_moves s source
    · exact stepReplay_moves sound source h
    · exact stepIdle_moves sound source h
    · exact asserting_moves sound source h
    · exact shifting_moves sound source h
    · exact deasserting_moves source h
    · cases h
      exact .configFault source rfl

end Sys2Proof.Machine

/-! PROOFS. The sequencer stays in step with its configuration: read off the legal moves (10_state.md R24, R26, R40). -/

namespace Sys2Proof.Machine

theorem step_keeps_cfg {s t : State} (h : step s = .next t) : t.cfg = s.cfg := by
  obtain ⟨-, hs⟩ | ⟨-, hs⟩ | ⟨-, hs⟩ | ⟨-, ⟨u, hs, still⟩ | ⟨ops, r, hs, still, -⟩⟩ := step_cases s <;> rw [hs] at h
  · cases h
    rfl
  · cases h
    exact (load_keeps s).1
  · cases h
    rfl
  · cases h
    exact still.cfg
  · exact (conclude_keeps_latches ops r t h).1.trans still.cfg

/-- SR keeps its number of bits (10_state.md R26). -/
theorem step_keeps_srLength {s t : State} (sound : SequencerSound s) (h : step s = .next t) :
    t.sr.length = s.cfg.profile.frameBits := by
  obtain ⟨-, hs⟩ | ⟨-, hs⟩ | ⟨-, hs⟩ | ⟨started, hr⟩ := step_cases s
  · cases hs.symm.trans h
    simp [unspecifiedSr]
  · cases hs.symm.trans h
    obtain ⟨-, -, -, sr⟩ := load_keeps s
    rw [sr, sound.srLength]
  · cases hs.symm.trans h
    exact sound.srLength
  · have legal := frameBitsLegal_of_started sound started
    obtain ⟨u, hs, still⟩ | ⟨ops, r, hs, still, -⟩ := hr <;> rw [hs] at h
    · cases h
      exact still.srLength legal sound.srLength
    · obtain ⟨-, -, keeps⟩ := conclude_keeps_latches ops r t h
      rw [still.cfg] at keeps
      exact keeps (still.srLength legal sound.srLength)

/-- The states of the sequencer that a configuration allows: past LOAD only a well-formed one, with `k` and `i` in range
(10_state.md R24, R40). -/
def Allows (c : Setup) : Seq → Prop
  | .load | .configFault => True
  | .replay k => setupOk c = true ∧ k ≤ (traceEvents c).length
  | .ready (.shifting i) => setupOk c = true ∧ i < c.profile.frameBits
  | .ready .idle | .ready .asserting | .ready .deasserting => setupOk c = true

theorem Allows.setupOk {c : Setup} {q : Seq} (h : Allows c q) (past : q ≠ .load ∧ q ≠ .configFault) :
    setupOk c = true := by
  match q with
  | .load => exact absurd rfl past.1
  | .configFault => exact absurd rfl past.2
  | .replay _ | .ready (.shifting _) => exact h.1
  | .ready .idle | .ready .asserting | .ready .deasserting => exact h

theorem SequencerSound.allows {s : State} (sound : SequencerSound s) : Allows s.cfg s.seq := by
  match source : s.seq with
  | .load | .configFault => trivial
  | .replay k => exact ⟨sound.setup (started_of_replay source), sound.replayIndex k source⟩
  | .ready (.shifting i) => exact ⟨sound.setup (started_of_ready source), sound.bitIndex i source⟩
  | .ready .idle | .ready .asserting | .ready .deasserting => exact sound.setup (started_of_ready source)

/-- The invariant is what the configuration allows, and the length of SR. -/
theorem sequencerSound_of_allows {s : State} (h : Allows s.cfg s.seq) (full : s.sr.length = s.cfg.profile.frameBits) :
    SequencerSound s where
  setup := h.setupOk
  replayIndex k source := by
    rw [source] at h
    exact h.2
  bitIndex i source := by
    rw [source] at h
    exact h.2
  srLength := full

/-- A legal move leads to a state the configuration allows. -/
theorem LegalMove.allows {s t : State} (move : LegalMove s t) (sound : SequencerSound s) : Allows s.cfg t.seq := by
  cases move with
  | reset _ _ target => rw [target]; trivial
  | loadFails _ target => rw [target]; trivial
  | loadPasses _ target check => rw [target]; exact ⟨check, Nat.zero_le _⟩
  | event k e source target applied =>
    obtain ⟨inTrace, -⟩ := List.getElem?_eq_some_iff.1 applied
    rw [target]
    exact ⟨sound.setup (started_of_replay source), inTrace⟩
  | startupDone source target => rw [target]; exact sound.setup (started_of_replay source)
  | startupFault _ _ target => rw [target]; trivial
  | rejected _ _ _ _ _ _ same => rw [same]; exact sound.allows
  | transferred _ _ source target => rw [target]; exact sound.setup (started_of_ready source)
  | commandFault _ _ source target => rw [target]; exact sound.setup (started_of_ready source)
  | waits _ _ _ same => rw [same]; exact sound.allows
  | asserted source target =>
    rw [target]
    exact ⟨sound.setup (started_of_ready source), frameBits_pos_of_started sound (started_of_ready source)⟩
  | bit _ source more target => rw [target]; exact ⟨sound.setup (started_of_ready source), more⟩
  | lastBit _ source _ target => rw [target]; exact sound.setup (started_of_ready source)
  | deasserted source target => rw [target]; exact sound.setup (started_of_ready source)
  | transferFault _ _ source target => rw [target]; exact sound.setup (started_of_ready source)
  | configFault _ same => rw [same]; exact sound.allows

/-- Settles O54: a legal move (R25) leads to a state the configuration allows, and SR keeps its length. -/
theorem stepKeepsSequencerSound : Obligations.StepKeepsSequencerSound := by
  intro s t sound h
  have move : LegalMove s t := sequencerMovesLegally s t sound h
  have cfg : t.cfg = s.cfg := step_keeps_cfg h
  exact sequencerSound_of_allows (cfg ▸ move.allows sound) (cfg ▸ step_keeps_srLength sound h)

end Sys2Proof.Machine

/-! PROOFS. The configuration check, clause by clause in the words of the spec (10_state.md R40, R31, 44_startup_replay.md R241). -/

namespace Sys2Proof.Machine

/-! ### The locations of a profile -/

theorem mem_allPositions (position : DigitPosition) : position ∈ allPositions := by cases position <;> decide

theorem mem_allSegments (segment : Segment) : segment ∈ allSegments := by cases segment <;> decide

/-- Space MAP is addressed by 21 pairs (20_memory.md R51). -/
def mapAddresses : List (DigitPosition × Segment) := allPositions ×ˢ allSegments

theorem mapEntries_eq (p : Profile) : mapEntries p = mapAddresses.map fun a => locate p a.1 a.2 := rfl

theorem mem_mapAddresses (a : DigitPosition × Segment) : a ∈ mapAddresses :=
  List.mem_product.2 ⟨mem_allPositions a.1, mem_allSegments a.2⟩

theorem mem_mapEntries {p : Profile} {entry : Option Loc} :
    entry ∈ mapEntries p ↔ ∃ position segment, locate p position segment = entry := by
  simp [mapEntries_eq, mem_mapAddresses]

theorem mem_segmentLocs {p : Profile} {l : Loc} :
    l ∈ segmentLocs p ↔ ∃ position segment, locate p position segment = some l := by
  simp [segmentLocs, mem_mapEntries]

theorem mem_hourTensLocs {p : Profile} {l : Loc} : l ∈ hourTensLocs p ↔ ∃ k : Fin 3, l ∈ p.hourTens[k] := by
  simp only [hourTensLocs, List.mem_flatten, Vector.mem_toList_iff, Vector.mem_iff_getElem]
  constructor
  · rintro ⟨_, ⟨i, hi, rfl⟩, mem⟩
    exact ⟨⟨i, hi⟩, mem⟩
  · rintro ⟨k, mem⟩
    exact ⟨_, ⟨k, k.isLt, rfl⟩, mem⟩

/-! ### The clauses -/

theorem inFrame_iff {l : Loc} : inFrame l = true ↔ l.byteIndex ≤ 4 ∧ l.bitIndex ≤ 7 := by
  simp [inFrame]
  omega

/-- Clause (a). -/
theorem allEntriesPresent_iff (p : Profile) :
    allEntriesPresent p = true ↔ ∀ position segment, ∃ l, locate p position segment = some l := by
  simp [allEntriesPresent, mapEntries_eq, mem_mapAddresses, Option.isSome_iff_exists]

/-- Clause (b). -/
theorem locationsInRange_iff (p : Profile) : locationsInRange p = true ↔
    (∀ l ∈ segmentLocs p, inFrame l = true) ∧ ∀ l ∈ hourTensLocs p, inFrame l = true := by
  simp only [locationsInRange, List.all_append, Bool.and_eq_true, List.all_eq_true]

/-- Clause (c), for a profile that has all its entries: the map is one to one. -/
theorem locationsDistinct_iff (p : Profile) (present : allEntriesPresent p = true) : locationsDistinct p = true ↔
    ∀ position segment position' segment', locate p position segment = locate p position' segment' →
      position = position' ∧ segment = segment' := by
  have ⟨loc, hloc⟩ : ∃ loc : DigitPosition → Segment → Loc, ∀ position segment,
      locate p position segment = some (loc position segment) := by
    simpa only [Classical.skolem] using (allEntriesPresent_iff p).1 present
  have locs : segmentLocs p = mapAddresses.map fun a => loc a.1 a.2 := by
    simp [segmentLocs, mapEntries_eq, hloc, List.filterMap_map]
  have addresses : mapAddresses.Nodup := by decide
  rw [locationsDistinct, decide_eq_true_eq, locs, List.nodup_map_iff_inj_on addresses]
  simp [hloc, mem_mapAddresses]

/-- Clause (d). -/
theorem locationsDisjoint_iff (p : Profile) : locationsDisjoint p = true ↔
    (∀ l ∈ segmentLocs p, frameBit p.baseFrame l = false ∧ l ∉ hourTensLocs p) ∧
      ∀ l ∈ hourTensLocs p, frameBit p.baseFrame l = false := by
  simp [locationsDisjoint]

theorem sameSet_comm (xs ys : List Loc) : sameSet xs ys = sameSet ys xs := Bool.and_comm _ _

theorem sameSet_eq_false_iff (xs ys : List Loc) : sameSet xs ys = false ↔ ∃ l, ¬(l ∈ xs ↔ l ∈ ys) := by
  rw [← not_forall, ← sameSet_iff, Bool.not_eq_true]

/-- Clause (e). -/
theorem hourTensDistinct_iff (p : Profile) : hourTensDistinct p = true ↔
    p.hourTens[0] = [] ∧ ∀ j k : Fin 3, j ≠ k → ∃ l, ¬(l ∈ p.hourTens[j] ↔ l ∈ p.hourTens[k]) := by
  simp only [← sameSet_eq_false_iff, hourTensDistinct, Bool.and_eq_true, List.isEmpty_iff, Bool.not_eq_true', and_assoc]
  constructor
  · rintro ⟨empty, h01, h02, h12⟩
    refine ⟨empty, fun j k ne => ?_⟩
    match j, k, ne with
    | 0, 0, ne | 1, 1, ne | 2, 2, ne => exact absurd rfl ne
    | 0, 1, _ => exact h01
    | 0, 2, _ => exact h02
    | 1, 2, _ => exact h12
    | 1, 0, _ => exact (sameSet_comm _ _).trans h01
    | 2, 0, _ => exact (sameSet_comm _ _).trans h02
    | 2, 1, _ => exact (sameSet_comm _ _).trans h12
  · rintro ⟨empty, distinct⟩
    exact ⟨empty, distinct 0 1 (by decide), distinct 0 2 (by decide), distinct 1 2 (by decide)⟩

/-- R31 (log entry 17). -/
theorem hourTensInByte4_iff (p : Profile) :
    hourTensInByte4 p = true ↔ ∀ l ∈ hourTensLocs p, l.byteIndex = 4 := by
  simp [hourTensInByte4]

/-- Clause (g), over the real numbers. -/
theorem timingNonNegative_iff (p : Profile) : timingNonNegative p = true ↔
    0 ≤ seconds p.timing.tAssert ∧ 0 ≤ seconds p.timing.tLow ∧ 0 ≤ seconds p.timing.tHigh ∧
      0 ≤ seconds p.timing.tDataIdle ∧ 0 ≤ seconds p.timing.tFinal := by
  simp [timingNonNegative, nonNegative_iff, and_assoc]

/-- A level field is 0 or 1 (30_encoding.md R91). -/
theorem rowLevel_isSome_iff (field : Option Nat) :
    (∃ v, rowLevel field = some v) ↔ field = some 0 ∨ field = some 1 := by
  unfold rowLevel
  split <;> simp_all

/-- A row that is well-formed (30_encoding.md R91). -/
theorem rowEvent_isSome_iff (r : TraceRow) : (∃ e, rowEvent r = some e) ↔
    (∃ t, r.delay = some t) ∧ (r.data = some 0 ∨ r.data = some 1) ∧ (r.clock = some 0 ∨ r.clock = some 1) ∧
      (r.enable = some 0 ∨ r.enable = some 1) := by
  simp only [← rowLevel_isSome_iff]
  unfold rowEvent
  cases r.delay <;> cases rowLevel r.data <;> cases rowLevel r.clock <;> cases rowLevel r.enable <;> simp

theorem rows_mapM_isSome_iff (rows : List TraceRow) :
    (∃ events, rows.mapM rowEvent = some events) ↔ ∀ r ∈ rows, ∃ e, rowEvent r = some e := by
  induction rows with
  | nil => simp
  | cons r rows ih =>
    rw [List.forall_mem_cons, ← ih, List.mapM_cons]
    cases rowEvent r <;> cases rows.mapM rowEvent <;> simp

/-- The asset is there and well-formed (44_startup_replay.md R241, 30_encoding.md R92). -/
theorem assetFailures_eq_nil_iff (tick : Tick) (a : TraceAsset) : assetFailures tick a = [] ↔
    (∃ records, a = .rom records) ∨ ∃ rows, a = .file rows ∧ ∀ r ∈ rows, ∃ e, rowEvent r = some e := by
  cases a with
  | missing => simp [assetFailures]
  | unreadable => simp [assetFailures]
  | romOfUnknownLength => simp [assetFailures, assetEvents]
  | rom records => simp [assetFailures, assetEvents]
  | file rows =>
    simp only [assetFailures, assetEvents, reduceCtorEq, exists_false, false_or, TraceAsset.file.injEq, exists_eq_left',
      ← rows_mapM_isSome_iff]
    cases rows.mapM rowEvent <;> simp

/-- The check of a profile, location by location: all clauses about the segments, then all about the hour-tens sets. -/
theorem profileOk_iff_locations (p : Profile) : profileOk p = true ↔
    (allEntriesPresent p = true ∧
      ∀ l ∈ segmentLocs p, inFrame l = true ∧ frameBit p.baseFrame l = false ∧ l ∉ hourTensLocs p) ∧
    (∀ l ∈ hourTensLocs p, l.byteIndex = 4 ∧ inFrame l = true ∧ frameBit p.baseFrame l = false) ∧
    locationsDistinct p = true ∧ hourTensDistinct p = true ∧ frameBitsLegal p = true ∧ timingNonNegative p = true := by
  rw [profileOk_iff, locationsInRange_iff, locationsDisjoint_iff, hourTensInByte4_iff]
  constructor
  · rintro ⟨present, ⟨segmentsIn, tensIn⟩, distinct, ⟨segmentsFree, tensFree⟩, sets, frameBits, timing, byte4⟩
    exact ⟨⟨present, fun l mem => ⟨segmentsIn l mem, segmentsFree l mem⟩⟩,
      fun l mem => ⟨byte4 l mem, tensIn l mem, tensFree l mem⟩, distinct, sets, frameBits, timing⟩
  · rintro ⟨⟨present, segments⟩, tens, distinct, sets, frameBits, timing⟩
    exact ⟨present, ⟨fun l mem => (segments l mem).1, fun l mem => (tens l mem).2.1⟩, distinct,
      ⟨fun l mem => (segments l mem).2, fun l mem => (tens l mem).2.2⟩, sets, frameBits, timing,
      fun l mem => (tens l mem).1⟩

/-- The clauses about the segments, entry by entry. -/
theorem segmentClauses_iff (p : Profile) :
    (allEntriesPresent p = true ∧
      ∀ l ∈ segmentLocs p, inFrame l = true ∧ frameBit p.baseFrame l = false ∧ l ∉ hourTensLocs p) ↔
    ∀ position segment, ∃ l, locate p position segment = some l ∧ l.byteIndex ≤ 4 ∧ l.bitIndex ≤ 7 ∧
      frameBit p.baseFrame l = false ∧ ∀ k : Fin 3, l ∉ p.hourTens[k] := by
  simp only [allEntriesPresent_iff, mem_segmentLocs, mem_hourTensLocs, inFrame_iff, not_exists, and_assoc]
  constructor
  · rintro ⟨present, good⟩ position segment
    obtain ⟨l, entry⟩ := present position segment
    exact ⟨l, entry, good l ⟨position, segment, entry⟩⟩
  · intro h
    refine ⟨fun position segment => (h position segment).imp fun l good => good.1, ?_⟩
    rintro l ⟨position, segment, entry⟩
    obtain ⟨l', entry', good⟩ := h position segment
    obtain rfl : l' = l := Option.some.inj (entry'.symm.trans entry)
    exact good

/-- The clauses about the hour-tens sets, set by set. -/
theorem hourTensClauses_iff (p : Profile) :
    (∀ l ∈ hourTensLocs p, l.byteIndex = 4 ∧ inFrame l = true ∧ frameBit p.baseFrame l = false) ↔
    ∀ (k : Fin 3) l, l ∈ p.hourTens[k] → l.byteIndex = 4 ∧ l.bitIndex ≤ 7 ∧ frameBit p.baseFrame l = false := by
  simp only [mem_hourTensLocs, inFrame_iff]
  constructor
  · intro h k l mem
    obtain ⟨byte, ⟨-, bit⟩, base⟩ := h l ⟨k, mem⟩
    exact ⟨byte, bit, base⟩
  · rintro h l ⟨k, mem⟩
    obtain ⟨byte, bit, base⟩ := h k l mem
    exact ⟨byte, ⟨byte.le, bit⟩, base⟩

/-- Settles O10: `setupOk` taken apart clause by clause; (c) is read off for a profile that has all its entries. -/
theorem configurationCheckIsRuleR40 : Obligations.ConfigurationCheckIsRuleR40 := by
  intro c
  rw [setupOk_iff, profileOk_iff_locations, assetFailures_eq_nil_iff, hourTensClauses_iff, hourTensDistinct_iff,
    timingNonNegative_iff]
  simp only [rowEvent_isSome_iff, ← segmentClauses_iff, frameBitsLegal, Bool.or_eq_true, decide_eq_true_eq, and_assoc]
  constructor
  · rintro ⟨present, segments, tens, distinct, others⟩
    exact ⟨present, segments, tens, (locationsDistinct_iff _ present).1 distinct, others⟩
  · rintro ⟨present, segments, tens, distinct, others⟩
    exact ⟨present, segments, tens, (locationsDistinct_iff _ present).2 distinct, others⟩

/-! ### REF40 (41_segment_map.md R150 to R153) -/

theorem mem_hourTensLocs_ref40 {ht1 : List Loc} {timing : Timing} {l : Loc} :
    l ∈ hourTensLocs (ref40 ht1 timing) ↔ l ∈ ht1 ∨ l ∈ ([⟨4, 6⟩, ⟨4, 0⟩] : List Loc) := by
  simp [hourTensLocs, ref40]

/-- In byte 4 of REF40 the base frame has no 1-bit, and the one segment is bit 7. -/
theorem ref40_byte4_free (timing : Timing) (ht1 : List Loc) (l : Loc) :
    (l.byteIndex = 4 ∧ inFrame l = true ∧ frameBit (ref40 ht1 timing).baseFrame l = false ∧
      l ∉ segmentLocs (ref40 ht1 timing)) ↔ l.byteIndex = 4 ∧ l.bitIndex < 7 := by
  have table : ∀ i < 8, (frameBit (ref40 [] default).baseFrame ⟨4, i⟩ = false ∧
      (⟨4, i⟩ : Loc) ∉ segmentLocs (ref40 [] default)) ↔ i < 7 := by decide
  obtain ⟨byte, bit⟩ := l
  rw [inFrame_iff]
  constructor
  · rintro ⟨rfl, ⟨-, inByte⟩, free⟩
    exact ⟨rfl, (table bit (Nat.lt_succ_of_le inByte)).1 free⟩
  · rintro ⟨rfl, low⟩
    exact ⟨rfl, ⟨le_rfl, low.le⟩, (table bit (Nat.lt_succ_of_lt low)).2 low⟩

theorem hourTensDistinct_ref40 (ht1 : List Loc) (timing : Timing) : hourTensDistinct (ref40 ht1 timing) = true ↔
    ht1.isEmpty = false ∧ sameSet ht1 [⟨4, 6⟩, ⟨4, 0⟩] = false := by
  have empty : sameSet [] ht1 = ht1.isEmpty := by cases ht1 <;> simp [sameSet]
  have other : sameSet [] [⟨4, 6⟩, ⟨4, 0⟩] = false := by decide
  simp [hourTensDistinct, ref40, empty, other]

/-- What R152 asks of `HT1` is what the check asks of all the hour-tens locations of REF40, and that the sets differ. -/
theorem ht1Admissible_iff (ht1 : List Loc) (timing : Timing) : ht1Admissible ht1 = true ↔
    (∀ l ∈ hourTensLocs (ref40 ht1 timing), l.byteIndex = 4 ∧ l.bitIndex < 7) ∧
      hourTensDistinct (ref40 ht1 timing) = true := by
  simp [ht1Admissible, hourTensDistinct_ref40, mem_hourTensLocs_ref40, or_imp, forall_and, and_assoc]

/-- The 21 segment locations of REF40 are in the frame and on no base 1-bit. -/
theorem ref40_segments_free (ht1 : List Loc) (timing : Timing) : ∀ l ∈ segmentLocs (ref40 ht1 timing),
    inFrame l = true ∧ frameBit (ref40 ht1 timing).baseFrame l = false := by
  have table : ∀ l ∈ segmentLocs (ref40 [] default),
      inFrame l = true ∧ frameBit (ref40 [] default).baseFrame l = false := by decide
  exact table

theorem ref40_locationsDistinct (ht1 : List Loc) (timing : Timing) : locationsDistinct (ref40 ht1 timing) = true := by
  have table : locationsDistinct (ref40 [] default) = true := by decide
  exact table

/-- Settles O15: of the clauses only those about the hour-tens locations depend on `HT1`. -/
theorem ref40WellFormedForAdmissibleHt1 : Obligations.Ref40WellFormedForAdmissibleHt1 := by
  intro ht1 timing times
  rw [profileOk_iff_locations, ht1Admissible_iff ht1 timing]
  constructor
  · rintro ⟨⟨-, segments⟩, tens, -, sets, -⟩
    refine ⟨fun l mem => ?_, sets⟩
    obtain ⟨byte, inside, base⟩ := tens l mem
    exact (ref40_byte4_free timing ht1 l).1 ⟨byte, inside, base, fun seg => (segments l seg).2.2 mem⟩
  · rintro ⟨tens, sets⟩
    have free := fun l mem => (ref40_byte4_free timing ht1 l).2 (tens l mem)
    refine ⟨⟨rfl, fun l seg => ?_⟩, fun l mem => ?_, ref40_locationsDistinct ht1 timing, sets, rfl, times⟩
    · obtain ⟨inside, base⟩ := ref40_segments_free ht1 timing l seg
      refine ⟨inside, base, fun mem => ?_⟩
      obtain ⟨-, -, -, noSegment⟩ := free l mem
      exact noSegment seg
    · obtain ⟨byte, inside, base, -⟩ := free l mem
      exact ⟨byte, inside, base⟩

end Sys2Proof.Machine

/-! PROOFS. What no operation and no step takes back: the configuration (10_state.md R20) and what has been put out
(20_memory.md R64). Both are read off `exec_runs` and `step_cases`. -/

namespace Sys2Proof.Machine

/-! ### The configuration -/

theorem Runs.keeps_cfg {s t : State} {a : Answer} (runs : Runs s a) (h : a = .next t) : t.cfg = s.cfg := by
  obtain ⟨u, rfl, still⟩ | ⟨ops, r, rfl, still, -⟩ := runs
  · cases h
    exact still.cfg
  · have kept : t.cfg = r.cfg := (conclude_keeps_latches ops r t h).1
    exact kept.trans still.cfg

/-- Settles O49: micro-operations, latch writes, LOAD and a reset all leave the configuration alone. -/
theorem configurationNeverChanges : Obligations.ConfigurationNeverChanges :=
  ⟨fun i s _ h => (exec_runs i s).keeps_cfg h, fun _ _ h => step_keeps_cfg h⟩

/-! ### The output -/

/-- From `s` to `t` the run goes on, and its trace and its status codes have at most grown. -/
def ExtendsOutput (s t : State) : Prop := t.past = s.past ∧ s.trace <+: t.trace ∧ s.delivered <+: t.delivered

/-- From `s` to `t` nothing put out is taken back: the run goes on, or a reset ends it and puts it on record. -/
def KeepsOutput (s t : State) : Prop :=
  ExtendsOutput s t ∨
  ∃ r, t.past = s.past ++ [r] ∧ s.trace <+: r.trace ∧ s.delivered <+: r.delivered ∧ t.seq = .load ∧ t.trace = []

theorem ExtendsOutput.of_eq {s t : State} (past : t.past = s.past) (trace : t.trace = s.trace)
    (delivered : t.delivered = s.delivered) : ExtendsOutput s t :=
  ⟨past, trace ▸ List.prefix_rfl, delivered ▸ List.prefix_rfl⟩

theorem ExtendsOutput.trans {s r t : State} (first : ExtendsOutput s r) (second : ExtendsOutput r t) :
    ExtendsOutput s t := by
  obtain ⟨past, trace, delivered⟩ := first
  obtain ⟨past', trace', delivered'⟩ := second
  exact ⟨past'.trans past, trace.trans trace', delivered.trans delivered'⟩

theorem ExtendsOutput.keeps {s r t : State} (first : ExtendsOutput s r) (second : KeepsOutput r t) :
    KeepsOutput s t := by
  obtain more | ⟨record, past', trace', delivered', restarted⟩ := second
  · exact .inl (first.trans more)
  · obtain ⟨past, trace, delivered⟩ := first
    exact .inr ⟨record, past ▸ past', trace.trans trace', delivered.trans delivered', restarted⟩

theorem Undriven.extendsOutput {s t : State} (h : Undriven s t) : ExtendsOutput s t :=
  ⟨h.past, h.trace ▸ List.prefix_rfl, h.delivered⟩

theorem raise_extendsOutput (s : State) (c : Condition) : ExtendsOutput s (s.raise c) := by
  obtain ⟨-, -, -, -, -, -, -, -, trace, -, -, past, -⟩ := raise_keeps s c
  refine ⟨past, trace ▸ List.prefix_rfl, ?_⟩
  rw [raise_delivered]
  split
  · exact List.prefix_rfl
  · exact List.prefix_append _ _

theorem applyReset_keepsOutput (s : State) : KeepsOutput s s.applyReset :=
  .inr ⟨_, State.applyReset_past s, List.prefix_rfl, List.prefix_rfl, rfl, rfl⟩

theorem perform_extendsOutput (op : MicroOp) (s : State) : ExtendsOutput s (op.perform s) := by
  cases op with
  | setline id v => exact ⟨rfl, List.prefix_append _ _, List.prefix_rfl⟩
  | delay t => exact ⟨rfl, List.prefix_append _ _, List.prefix_rfl⟩
  | goto q => exact .of_eq rfl rfl rfl
  | complete => exact ⟨rfl, List.prefix_rfl, List.prefix_append _ _⟩

theorem performAll_extendsOutput (ops : List MicroOp) (s : State) : ExtendsOutput s (performAll ops s) := by
  induction ops generalizing s with
  | nil => exact .of_eq rfl rfl rfl
  | cons op ops ih => exact (perform_extendsOutput op s).trans (ih _)

/-- However micro-operations end, what they have put out until then stays. -/
theorem conclude_keepsOutput {ops : List MicroOp} {s t : State} (h : conclude (runMicro ops s) = .next t) :
    KeepsOutput s t := by
  obtain ⟨done, rest, n, -, outcome⟩ := conclude_cases ops s
  have sofar : ExtendsOutput s (performAll done (s.afterDraws n)) := performAll_extendsOutput done (s.afterDraws n)
  obtain ⟨-, ha⟩ | ⟨id, v, -, -, -, ha⟩ | ⟨-, -, ha⟩ := outcome <;> cases ha.symm.trans h
  · exact .inl (sofar.trans (.of_eq rfl rfl rfl))
  · exact .inl (sofar.trans (raise_extendsOutput _ _))
  · exact sofar.keeps (applyReset_keepsOutput _)

theorem Runs.keepsOutput {s t : State} {a : Answer} (runs : Runs s a) (h : a = .next t) : KeepsOutput s t := by
  obtain ⟨u, rfl, still⟩ | ⟨ops, r, rfl, still, -⟩ := runs
  · cases h
    exact .inl still.extendsOutput
  · exact still.extendsOutput.keeps (conclude_keepsOutput h)

theorem load_extendsOutput (s : State) : ExtendsOutput s s.load := by
  obtain ⟨-, h⟩ | ⟨-, failed, h⟩ := load_cases s <;> rw [h]
  · exact .of_eq rfl rfl rfl
  · exact raise_extendsOutput s _

theorem step_keepsOutput {s t : State} (h : step s = .next t) : KeepsOutput s t := by
  obtain ⟨-, hs⟩ | ⟨-, hs⟩ | ⟨-, hs⟩ | ⟨-, runs⟩ := step_cases s
  · cases hs.symm.trans h
    exact applyReset_keepsOutput { s with env := s.env.tail }
  · cases hs.symm.trans h
    exact .inl (load_extendsOutput s)
  · cases hs.symm.trans h
    exact .inl (.of_eq rfl rfl rfl)
  · exact runs.keepsOutput h

/-- Settles O50: only a reset clears the trace and the status codes, and it puts both on record. -/
theorem outputIsNeverTakenBack : Obligations.OutputIsNeverTakenBack :=
  ⟨fun i s _ h => (exec_runs i s).keepsOutput h, fun _ _ h => step_keepsOutput h⟩

end Sys2Proof.Machine

/-! PROOFS. Words and bits: a word and its bits from left to right determine each other, and so do whole bytes and their bits
(20_memory.md R56). -/

namespace Sys2Proof.Machine

/-! ### Words -/

theorem wordBits_getElem {n j : Nat} (w : BitVec n) (h : j < (wordBits w).length) :
    (wordBits w)[j] = w.getLsbD (n - 1 - j) := by simp [wordBits]

theorem wordBits_getElem? {n j : Nat} (w : BitVec n) (h : j < n) : (wordBits w)[j]? = some (w.getLsbD (n - 1 - j)) := by
  simp [wordBits, h]

theorem bitsWord_append_singleton (n : Nat) (bits : List Bool) (b : Bool) :
    bitsWord n (bits ++ [b]) = (bitsWord n bits <<< 1) ||| (BitVec.ofBool b).setWidth n := by
  simp [bitsWord]

/-- The last bit of a sequence is bit 0 of its word. -/
theorem getLsbD_bitsWord (n : Nat) (bits : List Bool) (i : Nat) (hi : i < n) :
    (bitsWord n bits).getLsbD i = bits.reverse.getD i false := by
  induction bits using List.reverseRecOn generalizing i with
  | nil => simp [bitsWord]
  | append_singleton bits b ih =>
    rw [bitsWord_append_singleton, List.reverse_append]
    cases i with
    | zero => simp [hi]
    | succ i => simpa [hi, show i < n by omega] using ih i (by omega)

theorem bitsWord_wordBits {n : Nat} (w : BitVec n) : bitsWord n (wordBits w) = w := by
  refine BitVec.eq_of_getLsbD_eq fun i hi => ?_
  have place : n - 1 - (n - 1 - i) = i := by omega
  rw [getLsbD_bitsWord n _ i hi, List.getD_eq_getElem _ _ (by simpa [Laws.Width.wordBits_length] using hi),
    List.getElem_reverse, wordBits_getElem]
  simp [Laws.Width.wordBits_length, place]

theorem wordBits_bitsWord {n : Nat} {bits : List Bool} (long : bits.length = n) : wordBits (bitsWord n bits) = bits := by
  subst long
  refine List.ext_getElem (Laws.Width.wordBits_length _) fun j _ hj => ?_
  have place : bits.length - 1 - (bits.length - 1 - j) = j := by omega
  rw [wordBits_getElem, getLsbD_bitsWord _ _ _ (by omega), List.getD_eq_getElem _ _ (by simp; omega), List.getElem_reverse]
  simp [place]

/-! ### Bytes -/

theorem bitsBytes_byteBits_append (b : Byte) (bits : List Bool) :
    bitsBytes (byteBits b ++ bits) = (bitsBytes bits).map (b :: ·) := by
  have word : bitsWord 8 (byteBits b) = b := bitsWord_wordBits b
  exact congrArg (fun w => (bitsBytes bits).map (w :: ·)) word

theorem bitsBytes_flatMap_byteBits (bytes : List Byte) : bitsBytes (bytes.flatMap byteBits) = some bytes := by
  induction bytes with
  | nil => rfl
  | cons b bytes ih => rw [List.flatMap_cons, bitsBytes_byteBits_append, ih]; rfl

theorem flatMap_byteBits_of_bitsBytes {bits : List Bool} {bytes : List Byte} (h : bitsBytes bits = some bytes) :
    bytes.flatMap byteBits = bits := by
  induction bits using bitsBytes.induct generalizing bytes with
  | case1 => cases h; rfl
  | case2 b7 b6 b5 b4 b3 b2 b1 b0 bits ih =>
    obtain ⟨bytes', whole, rfl⟩ := Option.map_eq_some_iff.1 h
    have byte : byteBits (bitsWord 8 [b7, b6, b5, b4, b3, b2, b1, b0]) = [b7, b6, b5, b4, b3, b2, b1, b0] :=
      wordBits_bitsWord (n := 8) rfl
    rw [List.flatMap_cons, ih whole, byte]
    rfl
  | case3 bits notNil notByte =>
    rw [bitsBytes.eq_3 bits notNil notByte] at h
    cases h

end Sys2Proof.Machine

/-! PROOFS. The host commands: what the decoder reads is what the encoder writes, in a stream too
(30_encoding.md R95 to R99). -/

namespace Sys2Proof.Machine

/-! ### What the decoder makes of a command's first byte -/

theorem decodeCommand_time (rest : List Byte) : decodeCommand (0x01#8 :: rest) = decodeTime rest := rfl

theorem decodeCommand_raw (rest : List Byte) : decodeCommand (0x02#8 :: rest) = decodeRaw rest := rfl

theorem decodeRaw_cons (len : Byte) (rest : List Byte) : decodeRaw (len :: rest) =
    if len.toNat ≤ rest.length then .ok (.sendRaw (rest.take len.toNat), rest.drop len.toNat)
    else .error .truncated := rfl

theorem decodeCommand_reserved {op : Byte} (notTime : op ≠ 0x01#8) (notRaw : op ≠ 0x02#8) (rest : List Byte) :
    decodeCommand (op :: rest) = .ok (reservedOf op, rest) := by
  simp [decodeCommand, notTime, notRaw]

theorem commandLength_reserved {op : Byte} (notTime : op ≠ 0x01#8) (notRaw : op ≠ 0x02#8) (rest : List Byte) :
    commandLength (op :: rest) = 1 := by
  simp [commandLength, notTime, notRaw]

/-! ### Operands -/

theorem isSignedByte_iff (x : Int) : isSignedByte x = true ↔ -128 ≤ x ∧ x ≤ 127 := by simp [isSignedByte]

theorem isSignedByte_toInt (b : Byte) : isSignedByte b.toInt = true := by
  have low := BitVec.le_toInt b
  have high := BitVec.toInt_lt (x := b)
  rw [isSignedByte_iff]
  omega

theorem toInt_ofInt_of_isSignedByte {x : Int} (h : isSignedByte x = true) : (BitVec.ofInt 8 x).toInt = x := by
  rw [isSignedByte_iff] at h
  exact BitVec.toInt_ofInt_eq_self (by decide) (by omega) (by omega)

theorem reservedOf_wellFormed (op : Byte) : WellFormed (reservedOf op) = true := by
  unfold reservedOf
  split_ifs <;> rfl

theorem encodeCommand_reservedOf : ∀ op : Byte, op ≠ 0x01#8 → op ≠ 0x02#8 →
    encodeCommand (reservedOf op) = some [op] := by decide

/-- A command of one byte is a reserved opcode (30_encoding.md R99). -/
theorem opcode_of_encodeCommand {i : Instr} {op : Byte} (h : encodeCommand i = some [op]) :
    op ≠ 0x01#8 ∧ op ≠ 0x02#8 ∧ reservedOf op = i := by
  cases i <;> cases h
  case reserved00 | reserved03 => decide
  case reserved04 low | reserved08 low | reserved10 low | reserved20 low | reserved40 low | reserved80 low =>
    revert low
    decide

/-! ### Reading what was written -/

theorem decodeRaw_append (symbols rest : List Byte) (short : symbols.length ≤ 255) :
    decodeRaw (BitVec.ofNat 8 symbols.length :: (symbols ++ rest)) = .ok (.sendRaw symbols, rest) := by
  have len : (BitVec.ofNat 8 symbols.length).toNat = symbols.length := by
    rw [BitVec.toNat_ofNat]
    omega
  simp [decodeRaw_cons, len]

/-- The three forms a command's bytes have, by its first byte. -/
theorem encodeCommand_cases {i : Instr} {bytes : List Byte} (h : encodeCommand i = some bytes) :
    (∃ hours minutes, i = .sendTime hours minutes) ∨ (∃ symbols, i = .sendRaw symbols) ∨ (∃ op, bytes = [op]) := by
  cases i <;> cases h
  case sendTime hours minutes => exact .inl ⟨hours, minutes, rfl⟩
  case sendRaw symbols => exact .inr (.inl ⟨symbols, rfl⟩)
  all_goals exact .inr (.inr ⟨_, rfl⟩)

theorem decodeCommand_append {i : Instr} {bytes : List Byte} (wf : WellFormed i = true)
    (h : encodeCommand i = some bytes) (rest : List Byte) : decodeCommand (bytes ++ rest) = .ok (i, rest) := by
  obtain ⟨hours, minutes, rfl⟩ | ⟨symbols, rfl⟩ | ⟨op, rfl⟩ := encodeCommand_cases h
  · cases h
    obtain ⟨signedHours, signedMinutes⟩ : isSignedByte hours = true ∧ isSignedByte minutes = true := by
      simpa [WellFormed] using wf
    simp only [List.cons_append, List.nil_append, decodeCommand_time, decodeTime, toInt_ofInt_of_isSignedByte,
      signedHours, signedMinutes]
  · cases h
    exact decodeRaw_append symbols rest (by simpa [WellFormed] using wf)
  · obtain ⟨notTime, notRaw, rfl⟩ := opcode_of_encodeCommand h
    exact decodeCommand_reserved notTime notRaw rest

theorem commandLength_append {i : Instr} {bytes : List Byte} (wf : WellFormed i = true)
    (h : encodeCommand i = some bytes) (rest : List Byte) : commandLength (bytes ++ rest) = bytes.length := by
  obtain ⟨hours, minutes, rfl⟩ | ⟨symbols, rfl⟩ | ⟨op, rfl⟩ := encodeCommand_cases h
  · cases h
    rfl
  · cases h
    have short : symbols.length ≤ 255 := by simpa [WellFormed] using wf
    simp [commandLength]
    omega
  · obtain ⟨notTime, notRaw, -⟩ := opcode_of_encodeCommand h
    exact commandLength_reserved notTime notRaw rest

/-- Settles O4, form by form of a command's bytes. -/
theorem commandStreamSplitsAtCommandLength : Obligations.CommandStreamSplitsAtCommandLength :=
  fun _ _ rest wf h => ⟨decodeCommand_append wf h rest, commandLength_append wf h rest⟩

/-! ### Writing what was read -/

/-- What a stream begins with is read as a well-formed command only if it is that command's own bytes. -/
theorem encodeCommand_of_decodeCommand {bytes rest : List Byte} {i : Instr} (h : decodeCommand bytes = .ok (i, rest)) :
    WellFormed i = true ∧ ∃ own, encodeCommand i = some own ∧ bytes = own ++ rest := by
  match bytes with
  | [] => cases h
  | op :: bytes =>
    by_cases time : op = 0x01#8
    · rw [time, decodeCommand_time] at h
      match bytes with
      | [] | [_] => cases h
      | hh :: mm :: _ =>
        cases h
        exact ⟨by simp [WellFormed, isSignedByte_toInt], _, rfl, by simp [time]⟩
    · by_cases raw : op = 0x02#8
      · rw [raw, decodeCommand_raw] at h
        match bytes with
        | [] => cases h
        | len :: bytes =>
          rw [decodeRaw_cons] at h
          split_ifs at h with whole
          cases h
          have short := len.isLt
          refine ⟨by simp [WellFormed]; omega, _, rfl, ?_⟩
          simp [raw, whole]
      · rw [decodeCommand_reserved time raw] at h
        cases h
        exact ⟨reservedOf_wellFormed op, _, encodeCommand_reservedOf op time raw, rfl⟩

end Sys2Proof.Machine

/-! PROOFS. The formats: `decode` and `encode` undo each other, format by format (30_encoding.md R81 to R103). -/

namespace Sys2Proof.Machine

/-! ### Answers of a decoder -/

theorem encode_of_command {i : Instr} {bytes : List Byte} (h : encodeCommand i = some bytes) :
    encode i = some ⟨.cmd, bytes.flatMap byteBits⟩ := by rw [encode, h]

theorem encode_cases {i : Instr} {c : Coded} (h : encode i = some c) :
    (∃ bytes, encodeCommand i = some bytes ∧ c = ⟨.cmd, bytes.flatMap byteBits⟩) ∨ encodeData i = some c := by
  unfold encode at h
  split at h
  · cases h
    exact .inl ⟨_, ‹_›, rfl⟩
  · exact .inr h

/-- An operation that a decoder answers to `bits` is well-formed and has these bits for its encoding. -/
def Faithful (format : Format) (bits : List Bool) (answer : Except DecodeError Instr) : Prop :=
  ∀ i, answer = .ok i → WellFormed i = true ∧ encode i = some ⟨format, bits⟩

theorem Faithful.error {format : Format} {bits : List Bool} (e : DecodeError) : Faithful format bits (.error e) :=
  fun _ h => nomatch h

theorem Faithful.ok {format : Format} {bits : List Bool} {i : Instr} (written : encode i = some ⟨format, bits⟩)
    (wf : WellFormed i = true) : Faithful format bits (.ok i) := by
  rintro _ ⟨⟩
  exact ⟨wf, written⟩

theorem Faithful.ite {format : Format} {bits : List Bool} {c : Prop} [Decidable c] {x y : Except DecodeError Instr}
    (pos : c → Faithful format bits x) (neg : ¬c → Faithful format bits y) :
    Faithful format bits (if c then x else y) := by
  split_ifs with h
  · exact pos h
  · exact neg h

/-- The bits are compared with the word the encoder writes for `i`. -/
theorem Faithful.compare {format : Format} {bits word : List Bool} {i : Instr} {answer : Except DecodeError Instr}
    (written : encode i = some ⟨format, word⟩) (wf : WellFormed i = true) (others : Faithful format bits answer) :
    Faithful format bits (if bits = word then .ok i else answer) :=
  .ite (fun same => .ok (same ▸ written) wf) fun _ => others

/-! ### Commands (R95) -/

theorem decodeWholeCommand_encodeCommand {i : Instr} {bytes : List Byte} (wf : WellFormed i = true)
    (h : encodeCommand i = some bytes) : decodeWholeCommand (bytes.flatMap byteBits) = .ok i := by
  have read : decodeCommand bytes = .ok (i, []) := by simpa using decodeCommand_append wf h []
  simp [decodeWholeCommand, bitsBytes_flatMap_byteBits, read]

theorem decodeWholeCommand_faithful (bits : List Bool) : Faithful .cmd bits (decodeWholeCommand bits) := by
  unfold decodeWholeCommand
  split
  · exact .error _
  · rename_i bytes whole
    split
    · rename_i i read
      obtain ⟨wf, own, written, parts⟩ := encodeCommand_of_decodeCommand read
      rw [List.append_nil] at parts
      subst parts
      exact .ok (flatMap_byteBits_of_bitsBytes whole ▸ encode_of_command written) wf
    · exact .error _
    · exact .error _

/-! ### Glyphs and status codes (R81, R103) -/

theorem decodeSeg7_faithful (bits : List Bool) : Faithful .seg7 bits (decodeSeg7 bits) :=
  .ite (fun _ => .error _) fun _ => .compare rfl rfl <| .compare rfl rfl <| .compare rfl rfl <| .compare rfl rfl <|
    .compare rfl rfl <| .compare rfl rfl <| .compare rfl rfl <| .compare rfl rfl <| .compare rfl rfl <|
    .compare rfl rfl <| .error _

theorem decodeStatus_faithful (bits : List Bool) : Faithful .stat8 bits (decodeStatus bits) :=
  .ite (fun _ => .error _) fun _ => .compare rfl rfl <| .compare rfl rfl <| .compare rfl rfl <| .compare rfl rfl <|
    .compare rfl rfl <| .compare rfl rfl <| .compare rfl rfl <| .compare rfl rfl <| .error _

/-! ### Trace records (R92) -/

theorem recordInstr_recordWord (data clock enable : Level) (delay : BitVec 29) :
    recordInstr (recordWord data clock enable delay) = .traceEvent data clock enable delay := by
  have field : (recordWord data clock enable delay).setWidth 29 = delay := BitVec.setWidth_append_eq_right
  rw [recordInstr, field]
  simp only [recordWord, BitVec.getLsbD_append]
  simp

theorem decodeRecord_recordWord (data clock enable : Level) (delay : BitVec 29) :
    decodeRecord (wordBits (recordWord data clock enable delay)) = .ok (.traceEvent data clock enable delay) := by
  rw [decodeRecord, if_neg (not_not_intro (Laws.Width.wordBits_length _)), bitsWord_wordBits, recordInstr_recordWord]

theorem recordWord_of_word (w : BitVec 32) :
    recordWord (w.getLsbD 31) (w.getLsbD 30) (w.getLsbD 29) (w.setWidth 29) = w := by
  refine BitVec.eq_of_getLsbD_eq fun i hi => ?_
  simp only [recordWord, BitVec.getLsbD_append, BitVec.getLsbD_setWidth, BitVec.getLsbD_ofBool]
  by_cases delay : i < 29
  · simp [delay]
  · obtain rfl | rfl | rfl : i = 29 ∨ i = 30 ∨ i = 31 := by omega
    all_goals simp

theorem encode_recordInstr (w : BitVec 32) : encode (recordInstr w) = some ⟨.trec32, wordBits w⟩ :=
  congrArg (fun v => some (Coded.mk .trec32 (wordBits v))) (recordWord_of_word w)

theorem decodeRecord_faithful (bits : List Bool) : Faithful .trec32 bits (decodeRecord bits) :=
  .ite (fun _ => .error _) fun long =>
    .ok (by rw [encode_recordInstr, wordBits_bitsWord (of_not_not long)]) rfl

/-! ### Frames of REF40 (R84) -/

theorem isLit_pickMask (bits : List Bool) (a b c d e f g : Nat) (segment : Segment) :
    isLit (pickMask bits [a, b, c, d, e, f, g]) segment = bits.getD (match segment with
      | .a => a | .b => b | .c => c | .d => d | .e => e | .f => f | .g => g) false := by
  cases segment <;> exact getLsbD_bitsWord _ _ _ (by decide)

/-- A SEG7 mask is the word of its segments, A first (R81). -/
theorem bitsWord_isLit (m : BitVec 7) : bitsWord 7 (allSegments.map (isLit m)) = m := bitsWord_wordBits m

theorem decodeFrameRef40_frameRef40Bits (mo mt ho : BitVec 7) (h6 h0 : Bool) :
    decodeFrameRef40 (frameRef40Bits mo mt ho h6 h0) = .ok (.frameRef40 mo mt ho h6 h0) := by
  have read : decodeFrameRef40 (frameRef40Bits mo mt ho h6 h0) =
    .ok (.frameRef40 (bitsWord 7 (allSegments.map (isLit mo))) (bitsWord 7 (allSegments.map (isLit mt)))
      (bitsWord 7 (allSegments.map (isLit ho))) h6 h0) := rfl
  rw [read, bitsWord_isLit, bitsWord_isLit, bitsWord_isLit]

theorem map_getD_range (bits : List Bool) : ((List.range bits.length).map fun j => bits.getD j false) = bits :=
  List.ext_getElem (by simp) fun j _ hj => by simp [hj]

/-- The masks, read from their places, and the constants are all 40 bits of a frame. -/
theorem frameRef40Bits_pickMask {bits : List Bool} (long : bits.length = 40)
    (constants : (frameRef40Constants.all fun c => bits.getD c.1 false == c.2) = true) :
    frameRef40Bits (pickMask bits [9, 10, 11, 12, 32, 14, 15]) (pickMask bits [17, 18, 19, 20, 16, 22, 23])
      (pickMask bits [25, 26, 27, 28, 24, 30, 31]) (bits.getD 33 false) (bits.getD 39 false) = bits := by
  have place : ∀ c ∈ frameRef40Constants, bits.getD c.1 false = c.2 := by simpa using constants
  simp only [frameRef40Constants, List.forall_mem_cons] at place
  conv => rhs; rw [← map_getD_range bits, long]
  simp only [frameRef40Bits, isLit_pickMask, List.range, List.range.loop, List.map, place]

theorem decodeFrameRef40_faithful (bits : List Bool) : Faithful .frame40 bits (decodeFrameRef40 bits) :=
  .ite (fun _ => .error _) fun long => .ite (fun constants => .ok
    (congrArg (fun b => some (Coded.mk .frame40 b)) (frameRef40Bits_pickMask (of_not_not long) constants)) rfl)
    fun _ => .error _

/-! ### Wire sequences (R86, R87) -/

theorem decodeW40_wordBits (bits : BitVec 40) : decodeW40 (wordBits bits) = .ok (.wireW40 bits) := by
  rw [decodeW40, if_neg (not_not_intro (Laws.Width.wordBits_length _)), bitsWord_wordBits]

theorem decodeW41_wordBits (bits : BitVec 40) : decodeW41 (true :: wordBits bits) = .ok (.wireW41 bits) := by
  rw [decodeW41, if_neg (not_not_intro (Laws.Width.wordBits_length _)), if_pos rfl, bitsWord_wordBits]

theorem decodeW40_faithful (bits : List Bool) : Faithful .w40 bits (decodeW40 bits) :=
  .ite (fun _ => .error _) fun long =>
    .ok (congrArg (fun b => some (Coded.mk .w40 b)) (wordBits_bitsWord (of_not_not long))) rfl

theorem decodeW41_faithful (bits : List Bool) : Faithful .w41 bits (decodeW41 bits) := by
  match bits with
  | [] => exact .error _
  | false :: bits => exact .ite (fun _ => .error _) fun _ => .error _
  | true :: bits =>
    exact .ite (fun _ => .error _) fun long =>
      .ok (congrArg (fun b => some (Coded.mk .w41 (true :: b))) (wordBits_bitsWord (of_not_not long))) rfl

/-! ### The round trips -/

theorem decode_of_encodeData {i : Instr} {c : Coded} (h : encodeData i = some c) : decode c = .ok i := by
  cases i <;> cases h
  case traceEvent data clock enable delay => exact decodeRecord_recordWord data clock enable delay
  case frameRef40 mo mt ho h6 h0 => exact decodeFrameRef40_frameRef40Bits mo mt ho h6 h0
  case wireW40 bits => exact decodeW40_wordBits bits
  case wireW41 bits => exact decodeW41_wordBits bits
  all_goals rfl

/-- A command is read from its bytes as in a stream, every other operation in its format. -/
theorem decode_encode {i : Instr} {c : Coded} (wf : WellFormed i = true) (h : encode i = some c) : decode c = .ok i := by
  obtain ⟨bytes, command, rfl⟩ | data := encode_cases h
  · exact decodeWholeCommand_encodeCommand wf command
  · exact decode_of_encodeData data

/-- Settles O2: `decode_encode`. -/
theorem decodeOfEncodeIsTheOperation : Obligations.DecodeOfEncodeIsTheOperation :=
  fun _ _ wf h => decode_encode wf h

/-- Settles O3: the decoder of every format is faithful. -/
theorem encodeOfDecodeIsTheWord : Obligations.EncodeOfDecodeIsTheWord := by
  rintro ⟨format, bits⟩ i h
  cases format with
  | cmd => exact decodeWholeCommand_faithful bits i h
  | seg7 => exact decodeSeg7_faithful bits i h
  | trec32 => exact decodeRecord_faithful bits i h
  | frame40 => exact decodeFrameRef40_faithful bits i h
  | w40 => exact decodeW40_faithful bits i h
  | w41 => exact decodeW41_faithful bits i h
  | stat8 => exact decodeStatus_faithful bits i h

end Sys2Proof.Machine

/-! PROOFS. Which operations write the latches FRAME and SR (10_state.md R23, R26), and what the formats FRAME_REF40, W40 and
W41 give to the caller (30_encoding.md R84, R86, R87). -/

namespace Sys2Proof.Machine

/-! ### The writers of the latches -/

/-- ENCODE, in its own row and in SEND_TIME. -/
def WritesFrame (i : Instr) : Prop := ∃ hours minutes, i = .encode hours minutes ∨ i = .sendTime hours minutes

/-- EXPAND, in its own row, in TRANSMIT and in SEND_TIME, and SEND_RAW. -/
def WritesSr (i : Instr) : Prop :=
  i = .expand ∨ (∃ f, i = .transmit f) ∨ (∃ symbols, i = .sendRaw symbols) ∨ ∃ hours minutes, i = .sendTime hours minutes

/-- An answer of `i` in `s` that does not end in a reset has new latches only where `i` writes them. -/
def Latched (i : Instr) (s : State) (a : Answer) : Prop :=
  ∀ t, a = .next t → t.past = s.past → (t.frame ≠ s.frame → WritesFrame i) ∧ (t.sr ≠ s.sr → WritesSr i)

theorem Latched.next {i : Instr} {s t : State} (frame : t.frame ≠ s.frame → WritesFrame i := by exact (absurd rfl ·))
    (sr : t.sr ≠ s.sr → WritesSr i := by exact (absurd rfl ·)) : Latched i s (.next t) := by
  rintro _ ⟨⟩ -
  exact ⟨frame, sr⟩

theorem Latched.raise {i : Instr} {s : State} (c : Condition) : Latched i s (.next (s.raise c)) := by
  obtain ⟨-, -, frame, sr, -⟩ := raise_keeps s c
  exact .next (absurd frame) (absurd sr)

/-- Micro-operations write no latch, so what counts is the state they start from. -/
theorem Latched.micro {i : Instr} {s r : State} (ops : List MicroOp) (past : r.past = s.past)
    (frame : r.frame ≠ s.frame → WritesFrame i := by exact (absurd rfl ·))
    (sr : r.sr ≠ s.sr → WritesSr i := by exact (absurd rfl ·)) : Latched i s (conclude (runMicro ops r)) := by
  intro t h kept
  obtain ⟨-, keeps, -⟩ := conclude_keeps_latches ops r t h
  obtain ⟨frame', sr'⟩ := keeps (kept.trans past.symm)
  rw [frame', sr']
  exact ⟨frame, sr⟩

theorem Latched.when {i : Instr} {s : State} {may : Bool} {a : Answer} (h : Latched i s a) :
    Latched i s (s.when may a) := by
  cases may
  · exact .next
  · exact h

theorem Latched.ite {i : Instr} {s : State} {c : Prop} [Decidable c] {a b : Answer} (pos : Latched i s a)
    (neg : Latched i s b) : Latched i s (if c then a else b) := by
  split_ifs
  · exact pos
  · exact neg

theorem execSendRaw_latched (symbols : List Byte) (s : State) :
    Latched (.sendRaw symbols) s (execSendRaw symbols s) := by
  refine .when (.ite (.raise _) ?_)
  split
  · exact .raise _
  · exact .micro _ rfl (sr := fun _ => .inr (.inr (.inl ⟨symbols, rfl⟩)))

theorem execTraceEvent_latched (data clock enable : Level) (delay : BitVec 29) (s : State) :
    Latched (.traceEvent data clock enable delay) s (execTraceEvent data clock enable delay s) := by
  unfold execTraceEvent
  split
  · exact .when (.micro _ rfl)
  all_goals exact .next

theorem execSegfont_latched (digit : Int) (s : State) : Latched (.segfont digit) s (execSegfont digit s) := by
  unfold execSegfont
  split
  · exact .next
  · exact .raise _

/-- FRAME and SR have no other writers, in any state. -/
theorem exec_latched (i : Instr) (s : State) : Latched i s (exec i s) := by
  match i with
  | .sendTime hours minutes =>
    exact .when (.ite (.micro _ rfl (fun _ => ⟨hours, minutes, .inr rfl⟩)
      fun _ => .inr (.inr (.inr ⟨hours, minutes, rfl⟩))) (.raise _))
  | .sendRaw symbols => exact execSendRaw_latched symbols s
  | .reserved00 | .reserved03 | .reserved04 _ | .reserved08 _ | .reserved10 _ | .reserved20 _ | .reserved40 _
  | .reserved80 _ => exact .when (.raise _)
  | .glyph0 | .glyph1 | .glyph2 | .glyph3 | .glyph4 | .glyph5 | .glyph6 | .glyph7 | .glyph8 | .glyph9
  | .frameRef40 _ _ _ _ _ | .wireW40 _ | .wireW41 _ | .locate _ _
  | .statusOk | .statusInvalidInput | .statusInvalidLength | .statusInvalidCharacter | .statusTransportFault
  | .statusInvalidCommand | .statusConfigurationError | .statusInvalidDigit => exact .next
  | .traceEvent data clock enable delay => exact execTraceEvent_latched data clock enable delay s
  | .segfont digit => exact execSegfont_latched digit s
  | .encode hours minutes => exact .ite (.next (frame := fun _ => ⟨hours, minutes, .inl rfl⟩)) (.raise _)
  | .expand => exact .next (sr := fun _ => .inl rfl)
  | .transmit f => exact .when (.micro _ rfl (sr := fun _ => .inr (.inl ⟨f, rfl⟩)))
  | .shiftout | .replay | .idleAssert | .setline _ _ | .delay _ => exact .when (.micro _ rfl)

theorem exec_keeps_srLength {i : Instr} {s t : State} (h : exec i s = .next t)
    (legal : frameBitsLegal s.cfg.profile = true) (full : s.sr.length = s.cfg.profile.frameBits) :
    t.sr.length = t.cfg.profile.frameBits := by
  rw [(exec_runs i s).keeps_cfg h]
  obtain ⟨u, answer, still⟩ | ⟨ops, r, answer, still, -⟩ := exec_runs i s
  · cases answer.symm.trans h
    exact still.srLength legal full
  · obtain ⟨-, -, keeps⟩ := conclude_keeps_latches ops r t (answer.symm.trans h)
    rw [still.cfg] at keeps
    exact keeps (still.srLength legal full)

/-! ### The wire formats -/

/-- Settles O24: the bits are those of the word, and `exec_latched` names the writers of SR. -/
theorem wireFormatsGiveTheirBits : Obligations.WireFormatsGiveTheirBits := by
  refine ⟨fun s bits => ⟨⟨_, rfl, Laws.Width.wordBits_length bits, fun j hj => wordBits_getElem? bits hj⟩,
    ⟨_, rfl, congrArg Nat.succ (Laws.Width.wordBits_length bits), rfl, fun j hj => ?_⟩⟩,
    fun i s t h => ⟨fun kept => ?_, exec_keeps_srLength h⟩⟩
  · rw [List.getElem?_cons_succ]
    exact wordBits_getElem? bits hj
  · obtain ⟨-, sr⟩ := exec_latched i s t h kept
    exact sr

/-! ### The frame of FRAME_REF40 -/

/-- The 40 places of a frame in wire order (20_memory.md R56). -/
def wirePlaces : List Loc := (List.range 5).flatMap fun k => [7, 6, 5, 4, 3, 2, 1, 0].map fun i => ⟨k, i⟩

theorem frameWire_eq_map_frameBit (f : Frame) : frameWire f = wirePlaces.map (frameBit f) := by
  rcases f with ⟨⟨xs⟩, hx⟩
  rcases xs with _ | ⟨a, _ | ⟨b, _ | ⟨c, _ | ⟨d, _ | ⟨e, _ | _⟩⟩⟩⟩⟩ <;> simp at hx
  rfl

/-- A location is among those a set of segments lights exactly if a lit segment has it. -/
theorem contains_segmentLocations (p : Profile) (position : DigitPosition) (m : BitVec 7) (l : Loc) :
    (segmentLocations p position (litSegments m)).contains l =
      allSegments.any fun segment => decide (locate p position segment = some l) && isLit m segment := by
  rw [Bool.eq_iff_iff]
  simp [segmentLocations, litSegments, and_comm, and_assoc]

theorem inFrame_of_mem_wirePlaces : ∀ l ∈ wirePlaces, inFrame l = true := by decide

/-- Each of the 40 bits is a bit of the base frame, one of the two hour-tens bits, or at the place of a lit segment. -/
theorem frameWire_frameRef40 (mo mt ho : BitVec 7) (h6 h0 : Bool) :
    frameWire (frameRef40 mo mt ho h6 h0) = frameRef40Bits mo mt ho h6 h0 := by
  unfold frameRef40
  rw [frameWire_eq_map_frameBit,
    List.map_congr_left fun l hl => frameBit_setFrameBits _ _ l (inFrame_of_mem_wirePlaces l hl)]
  simp only [List.contains_append, contains_segmentLocations]
  simp [wirePlaces, List.range, List.range.loop, allSegments, locate, positionMap, segmentEntry, ref40, frameBit,
    frameRef40Bits]

/-- Settles O22: the frame bit by bit, and `exec_latched` for the writers of FRAME. -/
theorem frameRef40FollowsTheFieldTable : Obligations.FrameRef40FollowsTheFieldTable := by
  refine ⟨fun s mo mt ho h6 h0 => ⟨_, rfl, frameWire_frameRef40 mo mt ho h6 h0⟩, fun i s t h kept => ?_⟩
  obtain ⟨frame, -⟩ := exec_latched i s t h kept
  exact frame

end Sys2Proof.Machine

/-! PROOFS. Composite operations (30_encoding.md R102), and what a step reads: the command at the port, the record of the trace
(R92, R95, 45_driver_commands.md R262). -/

namespace Sys2Proof.Machine

/-! ### Composite operations -/

/-- SHIFTOUT with any bits in SR. -/
theorem shiftout_of_ready (s : State) (ready : s.seq = .ready .idle) (bits : List Bool) :
    exec .shiftout { s with sr := bits } = conclude (shiftoutMicro { s with sr := bits }) :=
  when_ready { s with sr := bits } ready _

theorem transmit_of_ready (s : State) (ready : s.seq = .ready .idle) (f : Frame) :
    exec (.transmit f) s = conclude (shiftoutMicro { s with sr := expandBits s.cfg.profile.frameBits f }) :=
  when_ready s ready _

theorem symbolBit_of_digit {b : Byte} (digit : b = 0x30#8 ∨ b = 0x31#8) :
    symbolBit b = some (decide (b = 0x31#8)) := by
  obtain rfl | rfl := digit <;> rfl

theorem firstBadSymbol_of_digits {symbols : List Byte} (digits : ∀ b ∈ symbols, b = 0x30#8 ∨ b = 0x31#8) (n : Nat) :
    firstBadSymbol n symbols = none := by
  induction symbols generalizing n with
  | nil => rfl
  | cons b symbols ih =>
    rw [List.forall_mem_cons] at digits
    rw [firstBadSymbol, symbolBit_of_digit digits.1]
    exact ih digits.2 (n + 1)

theorem symbolBits_of_digits {symbols : List Byte} (digits : ∀ b ∈ symbols, b = 0x30#8 ∨ b = 0x31#8) :
    symbolBits symbols = symbols.map fun b => decide (b = 0x31#8) :=
  List.map_congr_left fun b hb => by simp [symbolBit_of_digit (digits b hb)]

/-- Settles O35: when ready, each is `shiftoutMicro` of the same bits. -/
theorem compositeOperationsEndInShiftout : Obligations.CompositeOperationsEndInShiftout := by
  intro s ready
  refine ⟨fun f => ?_, fun hours minutes good => ⟨?_, ?_⟩, fun symbols long digits => ?_⟩
  · exact (transmit_of_ready s ready f).trans (shiftout_of_ready s ready _).symm
  · exact (sendTime_sends ready good).trans (shiftout_of_ready (s.encode hours minutes) ready _).symm
  · exact (sendTime_sends ready good).trans (transmit_of_ready (s.encode hours minutes) ready _).symm
  · rw [sendRaw_sends ready long (firstBadSymbol_of_digits digits 0), symbolBits_of_digits digits]
    exact (shiftout_of_ready s ready _).symm

/-! ### The command at the port -/

theorem step_of_idle {s : State} (ready : s.seq = .ready .idle) (noReset : s.env.head? ≠ some .reset) :
    step s = stepIdle s := by
  rw [step_without_reset s noReset, stepSeq, ready]

/-- Settles O5: what `decodeCommand` reads is a well-formed command's own bytes. -/
theorem stepRunsTheDecodedCommand : Obligations.StepRunsTheDecodedCommand := by
  intro s i rest ready noReset read
  obtain ⟨wf, -⟩ := encodeCommand_of_decodeCommand read
  refine ⟨wf, ?_⟩
  rw [step_of_idle ready noReset, stepIdle, read]

theorem decodeRaw_truncated {len : Byte} {symbols : List Byte} (short : symbols.length < len.toNat) :
    decodeRaw (len :: symbols) = .error .truncated := by
  rw [decodeRaw_cons, if_neg (by omega)]

/-- Settles O7: each incomplete form is read as `truncated`. -/
theorem incompleteCommandIsWaitedFor : Obligations.IncompleteCommandIsWaitedFor := by
  intro s ready noReset incomplete
  have read : decodeCommand s.port = .error .truncated := by
    obtain port | ⟨hh, port | port⟩ | port | ⟨len, symbols, port, short⟩ := incomplete <;> rw [port]
    · rfl
    · rfl
    · rfl
    · rfl
    · exact decodeRaw_truncated short
  rw [step_of_idle ready noReset, stepIdle, read]
  rfl

/-! ### The record of the trace -/

theorem traceEvents_of_rom {c : Setup} {records : List (BitVec 32)} (rom : c.asset = .rom records) :
    traceEvents c = records.map (wordEvent c.traceTick) := by
  simp [traceEvents, rom, assetEvents]

/-- TRACE_EVENT with the fields of a record applies the event of that record. -/
theorem exec_recordInstr {s : State} {k : Nat} (phase : s.seq = .replay k) (inside : k < s.traceLength) (w : BitVec 32) :
    exec (recordInstr w) s = applyEvent k (wordEvent s.cfg.traceTick w) s := by
  rw [recordInstr, exec, execTraceEvent, phase]
  simp [State.when, inside, wordEvent]

/-- Settles O6: the events of a ROM are its records, one by one. -/
theorem stepRunsTheTraceRecord : Obligations.StepRunsTheTraceRecord := by
  intro s k records phase noReset rom
  have event : s.traceEvent k = records[k]?.map (wordEvent s.cfg.traceTick) := by
    simp [State.traceEvent, traceEvents_of_rom rom]
  have length : s.traceLength = records.length := by simp [State.traceLength, traceEvents_of_rom rom]
  rw [step_without_reset s noReset, stepSeq, phase]
  refine ⟨fun w record => ?_, fun last => ?_⟩
  · have inside : k < records.length := (List.getElem?_eq_some_iff.1 record).1
    rw [exec_recordInstr phase (length ▸ inside)]
    simp [stepReplay, event, record]
  · simp [stepReplay, event, last]

/-! ### Words written out -/

/-- Settles O1: short words are evaluated, and the long ones are what `encode` writes for the operation. -/
theorem writtenOutWordsDecode : Obligations.WrittenOutWordsDecode :=
  ⟨by decide, by decide, by decide, by decide, by decide, by decide, by decide, by decide, decode_encode rfl rfl,
    decode_encode rfl rfl, decode_encode rfl rfl, decode_encode rfl rfl, decode_encode rfl rfl, by decide, by decide⟩

/-- Settles O46: each row is `deliverStatus` of its code. -/
theorem statusCodesAreDelivered : Obligations.StatusCodesAreDelivered :=
  fun _ => ⟨rfl, rfl, rfl, rfl, rfl, rfl, rfl, rfl, rfl⟩

end Sys2Proof.Machine

/-! PROOFS. The font: SEGFONT on digits and on other integers, and the letters the masks light (40_segment_font.md R120 to
R131, 60_exceptions.md R301). -/

namespace Sys2Proof.Machine

/-- The segments of the ten digits, 0 first, in the source's letters (R122 to R131). -/
def standardGlyphs : List (List Segment) :=
  [[.a, .b, .c, .d, .e, .f], [.b, .c], [.a, .b, .d, .e, .g], [.a, .b, .c, .d, .g], [.b, .c, .f, .g],
    [.a, .c, .d, .f, .g], [.a, .c, .d, .e, .f, .g], [.a, .b, .c], [.a, .b, .c, .d, .e, .f, .g],
    [.a, .b, .c, .d, .f, .g]]

theorem map_litSegments_fontRom : fontRom.map litSegments = standardGlyphs := by decide

theorem litSegments_zero : litSegments 0 = [] := by decide

/-- For every index: behind the end of the font both sides light nothing. -/
theorem litSegments_glyph (digit : Nat) : litSegments (glyph digit) = standardGlyphs.getD digit [] :=
  calc litSegments (glyph digit)
    _ = (fontRom.map litSegments).getD digit (litSegments 0) := (List.getD_map _ 0 litSegments).symm
    _ = standardGlyphs.getD digit [] := by rw [map_litSegments_fontRom, litSegments_zero]

theorem segfont_of_digit {digit : Int} (digit_nonneg : 0 ≤ digit) (digit_le : digit ≤ 9) :
    segfont digit = .ok (glyph digit.toNat) :=
  if_neg (by omega)

theorem segfont_of_not_digit {digit : Int} (outside : digit < 0 ∨ 9 < digit) :
    segfont digit = .error (.invalidDigit digit) :=
  if_pos outside

theorem exec_segfont_of_digit {digit : Int} (digit_nonneg : 0 ≤ digit) (digit_le : digit ≤ 9) (s : State) :
    exec (.segfont digit) s = .next (s.returns (.segments (glyph digit.toNat))) := by
  rw [exec, execSegfont, segfont_of_digit digit_nonneg digit_le]

/-- `InvalidDigit` is the condition that delivers no status and moves no phase (R301). -/
theorem exec_segfont_of_not_digit {digit : Int} (outside : digit < 0 ∨ 9 < digit) (s : State) :
    exec (.segfont digit) s = .next (s.returns (.raised (.invalidDigit digit))) := by
  rw [exec, execSegfont, segfont_of_not_digit outside]
  rfl

/-- Settles O12: a digit is answered with its entry of the font, whose letters are `litSegments_glyph`. -/
theorem segfontIsTheStandardFont : Obligations.SegfontIsTheStandardFont :=
  fun s digit => ⟨fun digit_nonneg digit_le =>
    ⟨glyph digit.toNat, exec_segfont_of_digit digit_nonneg digit_le s, litSegments_glyph digit.toNat⟩,
    fun outside => exec_segfont_of_not_digit outside s⟩

/-- Settles O11: each row is `readGlyph` of its own digit. -/
theorem glyphsGiveTheirSegments : Obligations.GlyphsGiveTheirSegments :=
  fun _ => ⟨rfl, rfl, rfl, rfl, rfl, rfl, rfl, rfl, rfl, rfl⟩

end Sys2Proof.Machine

/-! PROOFS. Space MAP: LOCATE and the map of a profile that passes LOAD, and the map and the frames of REF40
(41_segment_map.md R140, R141, R153, R157). -/

namespace Sys2Proof.Machine

/-! ### LOCATE -/

/-- In a profile that passes its check every entry is there, and inside the frame. -/
theorem locate_inFrame_of_profileOk {p : Profile} (good : profileOk p = true) (position : DigitPosition)
    (segment : Segment) : ∃ l, locate p position segment = some l ∧ inFrame l = true := by
  obtain ⟨⟨present, segments⟩, -⟩ := (profileOk_iff_locations p).1 good
  obtain ⟨l, entry⟩ := (allEntriesPresent_iff p).1 present position segment
  obtain ⟨inside, -⟩ := segments l (mem_segmentLocs.2 ⟨position, segment, entry⟩)
  exact ⟨l, entry, inside⟩

/-- In a profile that passes its check the map is one to one. -/
theorem locate_injective_of_profileOk {p : Profile} (good : profileOk p = true) {position position' : DigitPosition}
    {segment segment' : Segment} (same : locate p position segment = locate p position' segment') :
    position = position' ∧ segment = segment' := by
  obtain ⟨⟨present, -⟩, -, distinct, -⟩ := (profileOk_iff_locations p).1 good
  exact (locationsDistinct_iff p present).1 distinct _ _ _ _ same

/-- Settles O13: LOCATE is the lookup, and a configuration that passes LOAD has a profile that passes its check. -/
theorem locateReadsTheProfile : Obligations.LocateReadsTheProfile := by
  intro s position segment
  refine ⟨rfl, fun passed => ?_⟩
  obtain ⟨good, -⟩ := (setupOk_iff s.cfg).1 passed
  obtain ⟨l, entry, inside⟩ := locate_inFrame_of_profileOk good position segment
  exact ⟨l, entry, inside, fun _ _ entry' => locate_injective_of_profileOk good (entry'.trans entry.symm)⟩

/-! ### REF40 -/

/-- Settles O14: the table does not depend on the OPEN parameters. -/
theorem ref40LocationTable : Obligations.Ref40LocationTable := fun _ _ => ⟨rfl, rfl, rfl⟩

/-! ### The frame of a time -/

theorem digitSegments_of_digit {digit : Nat} (digit_le : digit ≤ 9) :
    digitSegments digit = litSegments (glyph digit) := by
  rw [digitSegments, segfont_of_digit (Int.natCast_nonneg digit) (Int.ofNat_le.2 digit_le), Int.toNat_natCast]

/-- Steps 1, 3 and 4 of ENCODE in terms of the glyphs of the digits (42_frame_encoder.md R172, R174, R175). -/
theorem assemble_eq_setFrameBits (p : Profile) (ht : Fin 3) (ho : Fin 10) (mt : Fin 6) (mo : Fin 10) :
    assemble p ht ho mt mo = setFrameBits p.baseFrame
      (p.hourTens[ht] ++ segmentLocations p .hourOnes (litSegments (glyph ho))
        ++ segmentLocations p .minuteTens (litSegments (glyph mt))
        ++ segmentLocations p .minuteOnes (litSegments (glyph mo))) := by
  rw [assemble, digitSegments_of_digit (by omega), digitSegments_of_digit (by omega), digitSegments_of_digit (by omega)]

theorem hourTensOf_of_not_teens {hours : Int} (valid : hours ≤ 23) (tens : hours < 10 ∨ 20 ≤ hours) :
    hourTensOf hours = if hours < 10 then 0 else 2 := by
  obtain early | late := tens
  · have quotient : hours.toNat / 10 = 0 := by omega
    rw [hourTensOf, quotient, if_pos early]
    rfl
  · have quotient : hours.toNat / 10 = 2 := by omega
    rw [hourTensOf, quotient, if_neg (by omega)]
    rfl

theorem hourOnesOf_val {hours : Int} (nonneg : 0 ≤ hours) : (hourOnesOf hours : Nat) = (hours % 10).toNat := by
  simp only [hourOnesOf, Fin.val_ofNat]
  omega

theorem minuteTensOf_val {minutes : Int} (valid : minutes ≤ 59) :
    (minuteTensOf minutes : Nat) = (minutes / 10).toNat := by
  simp only [minuteTensOf, Fin.val_ofNat]
  omega

theorem minuteOnesOf_val {minutes : Int} (nonneg : 0 ≤ minutes) :
    (minuteOnesOf minutes : Nat) = (minutes % 10).toNat := by
  simp only [minuteOnesOf, Fin.val_ofNat]
  omega

/-! ### The closed form -/

/-- The wire order leaves out no place of a frame. -/
theorem mem_wirePlaces {l : Loc} (inside : inFrame l = true) : l ∈ wirePlaces := by
  have table : ∀ k ≤ 4, ∀ i ≤ 7, (⟨k, i⟩ : Loc) ∈ wirePlaces := by decide
  obtain ⟨byte_le, bit_le⟩ := inFrame_iff.1 inside
  exact table l.byteIndex byte_le l.bitIndex bit_le

theorem frame_eq_of_frameWire_eq {f g : Frame} (same : frameWire f = frameWire g) : f = g := by
  rw [frameWire_eq_map_frameBit, frameWire_eq_map_frameBit, List.map_inj_left] at same
  exact frame_ext f g fun l inside => same l (mem_wirePlaces inside)

/-- For hour-tens 0 and 2, where `HT1` plays no part, ENCODE of REF40 fills in the row FRAME_REF40 (30_encoding.md R84). -/
theorem encodeFrame_ref40_eq_frameRef40 (ht1 : List Loc) (timing : Timing) {hours minutes : Int}
    (valid : timeInRange hours minutes = true) (tens : hours < 10 ∨ 20 ≤ hours) :
    encodeFrame (ref40 ht1 timing) hours minutes =
      frameRef40 (glyph (minutes % 10).toNat) (glyph (minutes / 10).toNat) (glyph (hours % 10).toNat)
        (!decide (hours < 10)) (!decide (hours < 10)) := by
  simp only [timeInRange, Bool.and_eq_true, decide_eq_true_eq] at valid
  obtain ⟨⟨⟨hours_nonneg, hours_le⟩, minutes_nonneg⟩, minutes_le⟩ := valid
  rw [encodeFrame, assemble_eq_setFrameBits, hourTensOf_of_not_teens hours_le tens, hourOnesOf_val hours_nonneg,
    minuteTensOf_val minutes_le, minuteOnesOf_val minutes_nonneg]
  by_cases early : hours < 10
  · rw [if_pos early, decide_eq_true early]
    rfl
  · rw [if_neg early, decide_eq_false early]
    rfl

/-- A digit's byte of REF40 but for segment E: `(m & 0x7B) | 0x04` (R157). -/
def ref40DigitByte (m : BitVec 7) : Byte := (m.setWidth 8 &&& 0x7B#8) ||| 0x04#8

/-- Segment E of a digit of REF40, in bit 7: `m[2] << 7` (R157). -/
def ref40SegmentE (m : BitVec 7) : Byte := if isLit m .e = true then 0x80#8 else 0#8

theorem byteBits_ref40DigitByte (m : BitVec 7) : byteBits (ref40DigitByte m) =
    [false, isLit m .a, isLit m .b, isLit m .c, isLit m .d, true, isLit m .f, isLit m .g] := by
  simp [byteBits, ref40DigitByte, isLit, segmentBit]

theorem byteBits_ref40SegmentE (m : BitVec 7) : byteBits (ref40SegmentE m) =
    [isLit m .e, false, false, false, false, false, false, false] := by
  rw [ref40SegmentE]
  cases isLit m .e <;> rfl

theorem byteBits_or (a b : Byte) : byteBits (a ||| b) = List.zipWith (· || ·) (byteBits a) (byteBits b) := by
  simp [byteBits]

/-- R157 for any three glyphs, with both hour-tens bits 0 or both 1. -/
theorem frameRef40_eq_closedForm (mo mt ho : BitVec 7) (early : Prop) [Decidable early] :
    frameRef40 mo mt ho (!decide early) (!decide early) =
      #v[0xAC#8, ref40DigitByte mo, ref40DigitByte mt ||| ref40SegmentE mt,
        ref40DigitByte ho ||| ref40SegmentE ho, ref40SegmentE mo ||| (if early then 0#8 else 0x41#8)] := by
  have base : byteBits 0xAC#8 = [true, false, true, false, true, true, false, false] := by decide
  have tens : byteBits (if early then 0#8 else 0x41#8) =
      [false, !decide early, false, false, false, false, false, !decide early] := by
    by_cases h : early <;> simp [h, byteBits]
  apply frame_eq_of_frameWire_eq
  rw [frameWire_frameRef40]
  simp [frameWire, byteBits_or, byteBits_ref40DigitByte, byteBits_ref40SegmentE, base, tens, frameRef40Bits]

/-- Settles O21: the closed form of the row FRAME_REF40, whose fields are the glyphs of the time. -/
theorem ref40ClosedForm : Obligations.Ref40ClosedForm := fun ht1 timing _ _ valid tens =>
  (encodeFrame_ref40_eq_frameRef40 ht1 timing valid tens).trans (frameRef40_eq_closedForm ..)

end Sys2Proof.Machine

/-! PROOFS. ENCODE: the bits of the frame it assembles, and what can be read back from them (42_frame_encoder.md R170 to R182). -/

namespace Sys2Proof.Machine

/-! ### The digits of a time (R171, R173) -/

theorem timeInRange_iff {hours minutes : Int} :
    timeInRange hours minutes = true ↔ 0 ≤ hours ∧ hours ≤ 23 ∧ 0 ≤ minutes ∧ minutes ≤ 59 := by
  simp [timeInRange, and_assoc]

theorem hourTensOf_val {hours : Int} (valid : hours ≤ 23) : (hourTensOf hours : Nat) = (hours / 10).toNat := by
  simp only [hourTensOf, Fin.val_ofNat]
  omega

theorem hourTensOf_add_tens {hours : Int} (nonneg : 0 ≤ hours) (small : hours ≤ 9) (tens : Fin 3) :
    hourTensOf (hours + 10 * tens) = tens := by
  apply Fin.ext
  simp only [hourTensOf, Fin.val_ofNat]
  omega

theorem hourOnesOf_add_tens {hours : Int} (nonneg : 0 ≤ hours) (tens : Fin 3) :
    hourOnesOf (hours + 10 * tens) = hourOnesOf hours := by
  apply Fin.ext
  rw [hourOnesOf_val (by omega), hourOnesOf_val nonneg]
  omega

/-- The digit that ENCODE draws at a position. -/
def glyphDigit (ho : Fin 10) (mt : Fin 6) (mo : Fin 10) : DigitPosition → Nat
  | .hourOnes => ho
  | .minuteTens => mt
  | .minuteOnes => mo

theorem exists_position (P : DigitPosition → Prop) :
    (∃ position, P position) ↔ P .hourOnes ∨ P .minuteTens ∨ P .minuteOnes := by
  constructor
  · rintro ⟨_ | _ | _, h⟩
    · exact .inl h
    · exact .inr (.inl h)
    · exact .inr (.inr h)
  · rintro (h | h | h) <;> exact ⟨_, h⟩

/-! ### The bits of the frame (R172 to R176) -/

theorem mem_segmentLocations {p : Profile} {position : DigitPosition} {m : BitVec 7} {l : Loc} :
    l ∈ segmentLocations p position (litSegments m) ↔
      ∃ segment, isLit m segment = true ∧ locate p position segment = some l := by
  simp [segmentLocations, litSegments, mem_allSegments]

/-- A bit of the frame is 1 for one of three causes: the base frame, the hour-tens set, a lit segment of a glyph. -/
theorem frameBit_assemble_iff (p : Profile) (ht : Fin 3) (ho : Fin 10) (mt : Fin 6) (mo : Fin 10) {l : Loc}
    (inside : inFrame l = true) : frameBit (assemble p ht ho mt mo) l = true ↔
      frameBit p.baseFrame l = true ∨ l ∈ p.hourTens[ht] ∨
        ∃ position segment, isLit (glyph (glyphDigit ho mt mo position)) segment = true ∧
          locate p position segment = some l := by
  rw [assemble_eq_setFrameBits, frameBit_setFrameBits _ _ l inside, exists_position, Bool.or_eq_true,
    List.contains_iff_mem]
  simp only [List.mem_append, mem_segmentLocations, glyphDigit, or_assoc]

/-- Settles O16: ENCODE writes the digits of the time and the frame `frameBit_assemble_iff` describes. -/
theorem encodeBuildsTheFrame : Obligations.EncodeBuildsTheFrame := by
  intro s hours minutes hours_nonneg hours_le minutes_nonneg minutes_le
  have valid := timeInRange_iff.2 ⟨hours_nonneg, hours_le, minutes_nonneg, minutes_le⟩
  have digit : ∀ {n : Nat} {d : Int}, 0 ≤ d → n = d.toNat → (n : Int) = d := by omega
  refine ⟨_, if_pos valid, rfl, digit (by omega) (hourTensOf_val hours_le), digit (by omega) (hourOnesOf_val hours_nonneg),
    digit (by omega) (minuteTensOf_val minutes_le), digit (by omega) (minuteOnesOf_val minutes_nonneg), fun l inside => ?_⟩
  exact (frameBit_assemble_iff _ _ _ _ _ inside).trans (by rw [exists_position]; rfl)

/-! ### The segments read back (R181) -/

/-- The other two causes of a 1-bit are excluded by clause (d) of the profile check, other segments by clause (c). -/
theorem frameBit_assemble_of_locate {p : Profile} (good : profileOk p = true) (ht : Fin 3) (ho : Fin 10) (mt : Fin 6)
    (mo : Fin 10) {position : DigitPosition} {segment : Segment} {l : Loc} (entry : locate p position segment = some l) :
    frameBit (assemble p ht ho mt mo) l = isLit (glyph (glyphDigit ho mt mo position)) segment := by
  obtain ⟨⟨-, segments⟩, -⟩ := (profileOk_iff_locations p).1 good
  obtain ⟨inside, base, noTens⟩ := segments l (mem_segmentLocs.2 ⟨position, segment, entry⟩)
  rw [Bool.eq_iff_iff, frameBit_assemble_iff p ht ho mt mo inside]
  constructor
  · rintro (set | mem | ⟨position', segment', lit, entry'⟩)
    · exact absurd (base.symm.trans set) Bool.false_ne_true
    · exact absurd (mem_hourTensLocs.2 ⟨ht, mem⟩) noTens
    · obtain ⟨rfl, rfl⟩ := locate_injective_of_profileOk good (entry'.trans entry.symm)
      exact lit
  · exact fun lit => .inr (.inr ⟨position, segment, lit, entry⟩)

/-- Settles O18: `frameBit_assemble_of_locate` at each position, for the digits of the time. -/
theorem frameShowsExactlyTheGlyphs : Obligations.FrameShowsExactlyTheGlyphs := by
  intro p hours minutes good valid segment l
  obtain ⟨hours_nonneg, -, minutes_nonneg, minutes_le⟩ := timeInRange_iff.1 valid
  rw [← hourOnesOf_val hours_nonneg, ← minuteTensOf_val minutes_le, ← minuteOnesOf_val minutes_nonneg]
  exact ⟨frameBit_assemble_of_locate good _ _ _ _, frameBit_assemble_of_locate good _ _ _ _,
    frameBit_assemble_of_locate good _ _ _ _⟩

/-! ### The hour-tens bits (R180) -/

/-- At an hour-tens location clause (d) of the profile check leaves the hour-tens set as the one cause of a 1-bit. -/
theorem frameBit_assemble_of_mem_hourTensLocs {p : Profile} (good : profileOk p = true) (ht : Fin 3) (ho : Fin 10)
    (mt : Fin 6) (mo : Fin 10) {l : Loc} (mem : l ∈ hourTensLocs p) :
    frameBit (assemble p ht ho mt mo) l = true ↔ l ∈ p.hourTens[ht] := by
  obtain ⟨⟨-, segments⟩, tens, -⟩ := (profileOk_iff_locations p).1 good
  obtain ⟨-, inside, base⟩ := tens l mem
  rw [frameBit_assemble_iff p ht ho mt mo inside]
  constructor
  · rintro (set | inSet | ⟨position, segment, -, entry⟩)
    · exact absurd (base.symm.trans set) Bool.false_ne_true
    · exact inSet
    · obtain ⟨-, -, noTens⟩ := segments l (mem_segmentLocs.2 ⟨position, segment, entry⟩)
      exact absurd mem noTens
  · exact fun inSet => .inr (.inl inSet)

/-- Hour-tens 0 adds no bit, and another digit adds its set to what the frame has besides. -/
theorem frameBit_assemble_ne_iff {p : Profile} (good : profileOk p = true) (ht : Fin 3) (ho : Fin 10) (mt : Fin 6)
    (mo : Fin 10) {l : Loc} (inside : inFrame l = true) :
    frameBit (assemble p 0 ho mt mo) l ≠ frameBit (assemble p ht ho mt mo) l ↔ l ∈ p.hourTens[ht] := by
  obtain ⟨-, -, -, sets, -⟩ := (profileOk_iff_locations p).1 good
  obtain ⟨empty, -⟩ := (hourTensDistinct_iff p).1 sets
  have notInEmpty : l ∉ p.hourTens[(0 : Fin 3)] := List.eq_nil_iff_forall_not_mem.1 empty l
  rw [ne_eq, Bool.eq_iff_iff]
  by_cases mem : l ∈ p.hourTens[ht]
  · have inSets := mem_hourTensLocs.2 ⟨ht, mem⟩
    simp only [frameBit_assemble_of_mem_hourTensLocs good _ ho mt mo inSets, mem, notInEmpty]
    decide
  · simp only [frameBit_assemble_iff p _ ho mt mo inside, mem, notInEmpty, not_true]

theorem frameBit_encodeFrame_ne_iff {p : Profile} (good : profileOk p = true) {hours : Int} (nonneg : 0 ≤ hours)
    (small : hours ≤ 9) (tens : Fin 3) (minutes : Int) {l : Loc} (inside : inFrame l = true) :
    frameBit (encodeFrame p hours minutes) l ≠ frameBit (encodeFrame p (hours + 10 * tens) minutes) l ↔
      l ∈ p.hourTens[tens] := by
  have early : hourTensOf hours = 0 := by
    rw [hourTensOf_of_not_teens (by omega) (by omega), if_pos (by omega)]
  rw [encodeFrame, encodeFrame, early, hourTensOf_add_tens nonneg small, hourOnesOf_add_tens nonneg]
  exact frameBit_assemble_ne_iff good tens _ _ _ inside

/-- Settles O19: ten and twenty hours more change the hour-tens digit alone. -/
theorem hourTensChangesOnlyItsBits : Obligations.HourTensChangesOnlyItsBits := fun _ _ minutes _ good _ _ inside =>
  ⟨fun nonneg small => frameBit_encodeFrame_ne_iff good nonneg small 1 minutes inside,
    fun nonneg small => frameBit_encodeFrame_ne_iff good nonneg (by omega) 2 minutes inside⟩

/-! ### The time read back (R182) -/

theorem glyph_injective_on_digits : ∀ a ≤ 9, ∀ b ≤ 9, glyph a = glyph b → a = b := by decide

theorem mask_eq_of_isLit_eq {m n : BitVec 7} (same : ∀ segment, isLit m segment = isLit n segment) : m = n := by
  rw [← bitsWord_isLit m, ← bitsWord_isLit n, funext same]

theorem glyphDigit_le (ho : Fin 10) (mt : Fin 6) (mo : Fin 10) (position : DigitPosition) :
    glyphDigit ho mt mo position ≤ 9 := by
  cases position <;> simp only [glyphDigit] <;> omega

/-- Testing the segment locations against the font gives back the digit of a position. -/
theorem glyphDigit_eq_of_assemble_eq {p : Profile} (good : profileOk p = true) {ht ht' : Fin 3} {ho ho' : Fin 10}
    {mt mt' : Fin 6} {mo mo' : Fin 10} (same : assemble p ht ho mt mo = assemble p ht' ho' mt' mo')
    (position : DigitPosition) : glyphDigit ho mt mo position = glyphDigit ho' mt' mo' position := by
  refine glyph_injective_on_digits _ (glyphDigit_le ..) _ (glyphDigit_le ..) (mask_eq_of_isLit_eq fun segment => ?_)
  obtain ⟨l, entry, -⟩ := locate_inFrame_of_profileOk good position segment
  rw [← frameBit_assemble_of_locate good ht ho mt mo entry, same, frameBit_assemble_of_locate good ht' ho' mt' mo' entry]

/-- Testing the hour-tens locations gives back the hour-tens digit, since the sets differ (clause (e)). -/
theorem hourTens_eq_of_assemble_eq {p : Profile} (good : profileOk p = true) {ht ht' : Fin 3} {ho ho' : Fin 10}
    {mt mt' : Fin 6} {mo mo' : Fin 10} (same : assemble p ht ho mt mo = assemble p ht' ho' mt' mo') : ht = ht' := by
  obtain ⟨-, -, -, sets, -⟩ := (profileOk_iff_locations p).1 good
  obtain ⟨-, distinct⟩ := (hourTensDistinct_iff p).1 sets
  have sameSets : ∀ l ∈ hourTensLocs p, l ∈ p.hourTens[ht] ↔ l ∈ p.hourTens[ht'] := fun l mem => by
    rw [← frameBit_assemble_of_mem_hourTensLocs good ht ho mt mo mem, same,
      frameBit_assemble_of_mem_hourTensLocs good ht' ho' mt' mo' mem]
  by_contra ne
  obtain ⟨l, differ⟩ := distinct ht ht' ne
  exact differ ⟨fun mem => (sameSets l (mem_hourTensLocs.2 ⟨ht, mem⟩)).1 mem,
    fun mem => (sameSets l (mem_hourTensLocs.2 ⟨ht', mem⟩)).2 mem⟩

theorem time_eq_of_digits_eq {h m h' m' : Int} (valid : timeInRange h m = true) (valid' : timeInRange h' m' = true)
    (tens : hourTensOf h = hourTensOf h') (digits : ∀ position,
      glyphDigit (hourOnesOf h) (minuteTensOf m) (minuteOnesOf m) position =
        glyphDigit (hourOnesOf h') (minuteTensOf m') (minuteOnesOf m') position) : h = h' ∧ m = m' := by
  obtain ⟨h_nonneg, h_le, m_nonneg, m_le⟩ := timeInRange_iff.1 valid
  obtain ⟨h'_nonneg, h'_le, m'_nonneg, m'_le⟩ := timeInRange_iff.1 valid'
  have hourTens := congrArg Fin.val tens
  have hourOnes := digits .hourOnes
  have minuteTens := digits .minuteTens
  have minuteOnes := digits .minuteOnes
  simp only [glyphDigit, hourTensOf_val, hourOnesOf_val, minuteTensOf_val, minuteOnesOf_val, h_nonneg, h_le, m_nonneg,
    m_le, h'_nonneg, h'_le, m'_nonneg, m'_le] at hourTens hourOnes minuteTens minuteOnes
  omega

/-- Settles O20: the four digits are read back from the frame. -/
theorem encodeIsOneToOne : Obligations.EncodeIsOneToOne := fun _ _ _ _ _ good valid valid' same =>
  time_eq_of_digits_eq valid valid' (hourTens_eq_of_assemble_eq good same) (glyphDigit_eq_of_assemble_eq good same)

end Sys2Proof.Machine

/-! PROOFS. The transfer: what it leaves when nothing disturbs it, its closed-form trace in numbers, and the bits that EXPAND
gives it (43_line_transport.md R200 to R214). -/

namespace Sys2Proof.Machine

/-! ### The closed form in numbers (R212) -/

theorem length_flatMap_cellTrace (t : Timing) (bits : List Bool) : (bits.flatMap (cellTrace t)).length = 5 * bits.length := by
  simp [List.length_flatMap, cellTrace, Nat.mul_comm]

theorem length_transferTrace (t : Timing) (bits : List Bool) :
    (transferTrace t bits).length = 5 * bits.length + 6 := by
  simp only [transferTrace, List.length_append, length_flatMap_cellTrace, List.length_cons, List.length_nil]
  omega

theorem writeCount_append (xs ys : List Event) : writeCount (xs ++ ys) = writeCount xs + writeCount ys := by
  simp [writeCount]

theorem writeCount_flatMap_cellTrace (t : Timing) (bits : List Bool) :
    writeCount (bits.flatMap (cellTrace t)) = 3 * bits.length := by
  induction bits with
  | nil => rfl
  | cons b bits ih =>
    have cell : writeCount (cellTrace t b) = 3 := rfl
    rw [List.flatMap_cons, writeCount_append, ih, cell, List.length_cons]
    omega

theorem writeCount_transferTrace (t : Timing) (bits : List Bool) :
    writeCount (transferTrace t bits) = 3 * bits.length + 3 := by
  have start : writeCount [.w .en false, .d t.tAssert] = 1 := rfl
  have finish : writeCount [.w .data true, .d t.tDataIdle, .w .en true, .d t.tFinal] = 2 := rfl
  rw [transferTrace, writeCount_append, writeCount_append, writeCount_flatMap_cellTrace, start, finish]
  omega

theorem traceDuration_append (xs ys : List Event) :
    traceDuration (xs ++ ys) = traceDuration xs + traceDuration ys := by
  induction xs with
  | nil => simp [traceDuration]
  | cons e xs ih => cases e <;> simp [traceDuration, ih, add_assoc]

theorem traceDuration_flatMap_cellTrace (t : Timing) (bits : List Bool) :
    traceDuration (bits.flatMap (cellTrace t)) = bits.length * (seconds t.tLow + seconds t.tHigh) := by
  induction bits with
  | nil => simp [traceDuration]
  | cons b bits ih =>
    have cell : traceDuration (cellTrace t b) = seconds t.tLow + seconds t.tHigh := by simp [cellTrace, traceDuration]
    rw [List.flatMap_cons, traceDuration_append, ih, cell, List.length_cons]
    push_cast
    ring

theorem traceDuration_transferTrace (t : Timing) (bits : List Bool) : traceDuration (transferTrace t bits) =
    seconds t.tAssert + bits.length * (seconds t.tLow + seconds t.tHigh) + seconds t.tDataIdle + seconds t.tFinal := by
  rw [transferTrace, traceDuration_append, traceDuration_append, traceDuration_flatMap_cellTrace]
  simp [traceDuration, add_assoc]

/-! ### Where a transfer leaves the lines (R211) -/

/-- Every bit cell ends with the clock high. -/
theorem lastWrite_clk_flatMap_cellTrace (t : Timing) {bits : List Bool} (nonempty : bits ≠ []) :
    lastWrite .clk (bits.flatMap (cellTrace t)) = some true := by
  obtain ⟨bits, b, rfl⟩ := (List.eq_nil_or_concat' bits).resolve_left nonempty
  have cell : lastWrite .clk (cellTrace t b) = some true := rfl
  rw [List.flatMap_append, List.flatMap_singleton, lastWrite_append, cell, Option.some_or]

/-- A transfer of at least one bit ends with all lines high, whatever they were before. -/
theorem lastWrite_transferTrace (t : Timing) {bits : List Bool} (nonempty : bits ≠ []) (id : Line) :
    lastWrite id (transferTrace t bits) = some true := by
  rw [transferTrace, lastWrite_append, lastWrite_append]
  cases id with
  | data | en => rfl
  | clk =>
    rw [lastWrite_clk_flatMap_cellTrace t nonempty]
    rfl

theorem length_shiftBits (s : State) : s.shiftBits.length = s.cfg.profile.frameBits := by simp [State.shiftBits]

theorem frameBits_of_legal {p : Profile} (legal : frameBitsLegal p = true) : p.frameBits = 40 ∨ p.frameBits = 41 := by
  simpa [frameBitsLegal] using legal

theorem shiftBits_ne_nil {s : State} (legal : frameBitsLegal s.cfg.profile = true) : s.shiftBits ≠ [] := by
  have bits := frameBits_of_legal legal
  rw [← List.length_pos_iff, length_shiftBits]
  omega

/-- Where the last write to each line is high, all lines end high. -/
theorem lines_high_of_lastWrite {ops : List MicroOp} {out : List Event} (trace : opsTrace ops = out)
    (high : ∀ id, lastWrite id out = some true) (s : State) :
    (performAll ops s).lines = { data := true, clk := true, en := true } := by
  refine Lines.ext_get _ _ fun id => ?_
  rw [performAll_lines, trace, high]
  cases id <;> rfl

/-- The effect of SHIFTOUT but for the draws it uses up. -/
theorem performAll_shiftoutOps (s : State) (legal : frameBitsLegal s.cfg.profile = true) :
    performAll (shiftoutOps s.cfg.profile s.srBit) s =
      { s with
        lines := { data := true, clk := true, en := true }
        seq := .ready .idle
        delivered := s.delivered ++ [.ok]
        trace := s.trace ++ transferTrace s.cfg.profile.timing s.shiftBits
        faulted := false } := by
  have trace := opsTrace_shiftout s.cfg.profile s.srBit
  have lines := lines_high_of_lastWrite trace (lastWrite_transferTrace _ (shiftBits_ne_nil legal)) s
  obtain ⟨cfg, frame, sr, ht, ho, mt, mo, port, env, result, past, out⟩ :=
    performAll_keeps (shiftoutOps s.cfg.profile s.srBit) s
  rw [trace] at out
  have told : (performAll (shiftoutBody s.cfg.profile s.srBit) s).delivered = s.delivered :=
    (performAll_status _ s fun mem => (staysOn_shiftoutBody .idle _ _ _ mem).1 rfl).1
  have completes : performAll (shiftoutOps s.cfg.profile s.srBit) s =
      (performAll (shiftoutBody s.cfg.profile s.srBit) s).complete := by
    rw [shiftoutOps_eq, performAll_append]
    rfl
  refine State.ext_fields _ _ cfg ?_ lines frame sr ht ho mt mo ?_ out port env result ?_ past <;> rw [completes]
  · rfl
  · rw [State.complete_delivered, told]
  · rfl

/-- A transfer that nothing disturbs (R211, R212). -/
theorem shiftout_undisturbed (s : State) (legal : frameBitsLegal s.cfg.profile = true) (free : s.undisturbed = true) :
    conclude (shiftoutMicro s) = .next (s.afterTransfer s.shiftBits) := by
  have draws : drawsUsed (shiftoutOps s.cfg.profile s.srBit) = 5 * s.shiftBits.length + 6 := by
    rw [drawsUsed, opsTrace_shiftout, length_transferTrace, State.shiftBits]
  rw [shiftoutMicro, runMicro_undisturbed _ s free, performAll_afterDraws, performAll_shiftoutOps s legal, draws]
  rfl

/-- The same when SR has its full length, as it has in every run (10_state.md R26). -/
theorem shiftout_undisturbed_of_full (s : State) (full : s.sr.length = s.cfg.profile.frameBits)
    (legal : frameBitsLegal s.cfg.profile = true) (free : s.undisturbed = true) :
    conclude (shiftoutMicro s) = .next (s.afterTransfer s.sr) := by
  rw [shiftout_undisturbed s legal free, shiftBits_eq_sr s full]

/-- Settles O25: `shiftout_undisturbed`, and the closed form in numbers. -/
theorem shiftoutCompletesWithTheClosedTrace : Obligations.ShiftoutCompletesWithTheClosedTrace := by
  intro s ready legal free
  have completes : exec .shiftout s = .next (s.afterTransfer s.shiftBits) :=
    (when_ready s ready _).trans (shiftout_undisturbed s legal free)
  have events := length_transferTrace s.cfg.profile.timing s.shiftBits
  have writes := writeCount_transferTrace s.cfg.profile.timing s.shiftBits
  have duration := traceDuration_transferTrace s.cfg.profile.timing s.shiftBits
  rw [length_shiftBits] at events writes duration
  exact ⟨completes, length_shiftBits s, events, writes, by rw [events, writes]; omega, duration⟩

/-! ### EXPAND (R201) -/

theorem wirePlaces_getElem? {l : Loc} (inside : inFrame l = true) :
    wirePlaces[8 * l.byteIndex + (7 - l.bitIndex)]? = some l := by
  have table : ∀ k ≤ 4, ∀ i ≤ 7, wirePlaces[8 * k + (7 - i)]? = some ⟨k, i⟩ := by decide
  obtain ⟨byte_le, bit_le⟩ := inFrame_iff.1 inside
  exact table l.byteIndex byte_le l.bitIndex bit_le

/-- The bit of a location stands at its place in wire order (20_memory.md R56). -/
theorem frameWire_getElem? (f : Frame) {l : Loc} (inside : inFrame l = true) :
    (frameWire f)[8 * l.byteIndex + (7 - l.bitIndex)]? = some (frameBit f l) := by
  rw [frameWire_eq_map_frameBit, List.getElem?_map, wirePlaces_getElem? inside]
  rfl

theorem expandBits_40 (f : Frame) : expandBits 40 f = frameWire f := rfl

theorem expandBits_41 (f : Frame) : expandBits 41 f = true :: frameWire f := rfl

/-- Settles O23: the bits EXPAND gives are the frame's in wire order, behind the framing bit if there are 41. -/
theorem expandOrdersTheFrameBits : Obligations.ExpandOrdersTheFrameBits := by
  intro s
  refine ⟨s.expand.returns .done, rfl, rfl, fun bits => ?_, fun bits => ?_⟩
  · rw [State.returns_sr, State.expand_sr, bits, expandBits_40]
    exact ⟨frameWire_length _, fun l inside => frameWire_getElem? _ inside⟩
  · rw [State.returns_sr, State.expand_sr, bits, expandBits_41]
    refine ⟨congrArg Nat.succ (frameWire_length _), rfl, fun l inside => ?_⟩
    rw [List.getElem?_cons_succ]
    exact frameWire_getElem? _ inside

/-! ### The operations that load SR and transfer it, when ready and undisturbed (R200, 45_driver_commands.md R261, R266) -/

theorem transmit_undisturbed {s : State} (ready : s.seq = .ready .idle) (legal : frameBitsLegal s.cfg.profile = true)
    (free : s.undisturbed = true) (f : Frame) :
    exec (.transmit f) s = .next (State.afterTransfer { s with sr := expandBits s.cfg.profile.frameBits f }
      (expandBits s.cfg.profile.frameBits f)) :=
  (transmit_of_ready s ready f).trans
    (shiftout_undisturbed_of_full { s with sr := _ } (expandBits_length _ legal f) legal free)

theorem sendRaw_undisturbed {s : State} (ready : s.seq = .ready .idle) (legal : frameBitsLegal s.cfg.profile = true)
    (free : s.undisturbed = true) {symbols : List Byte} (long : symbols.length = s.cfg.profile.frameBits)
    (good : firstBadSymbol 0 symbols = none) :
    exec (.sendRaw symbols) s =
      .next (State.afterTransfer { s with sr := symbolBits symbols } (symbolBits symbols)) :=
  (sendRaw_sends ready long good).trans
    (shiftout_undisturbed_of_full { s with sr := _ } (by simpa [symbolBits] using long) legal free)

theorem sendTime_undisturbed {s : State} (ready : s.seq = .ready .idle) (legal : frameBitsLegal s.cfg.profile = true)
    (free : s.undisturbed = true) {hours minutes : Int} (good : timeInRange hours minutes = true) :
    exec (.sendTime hours minutes) s = .next ((s.encode hours minutes).expand.afterTransfer
      (expandBits s.cfg.profile.frameBits (encodeFrame s.cfg.profile hours minutes))) :=
  (sendTime_sends ready good).trans
    (shiftout_undisturbed_of_full (s.encode hours minutes).expand (expandBits_length _ legal _) legal free)

/-- The string of 41 zeros, which has no framing bit. -/
def allZeroSymbols : List Byte := List.replicate 41 0x30#8

/-- Settles O26: TRANSMIT is a transfer of EXPAND's bits, and SEND_RAW can transfer 41 zeros. -/
theorem frameExpansionOfTransmit : Obligations.FrameExpansionOfTransmit := by
  refine ⟨fun s f ready legal free => ⟨transmit_undisturbed ready legal free f, rfl, expandBits_length _ legal f,
    fun bits => ?_⟩, fun s ready free bits => ?_⟩
  · rw [bits]
    rfl
  · have legal : frameBitsLegal s.cfg.profile = true := by simp [frameBitsLegal, bits]
    have long : allZeroSymbols.length = s.cfg.profile.frameBits := bits ▸ rfl
    exact ⟨allZeroSymbols, _, sendRaw_undisturbed ready legal free long rfl, rfl, rfl⟩

/-! ### Idempotence (R214) -/

/-- From `s` and from `s'` the answers put out the same events. -/
def SameOutput (s s' : State) (a a' : Answer) : Prop :=
  ∃ t t' out, a = .next t ∧ a' = .next t' ∧ t.trace = s.trace ++ out ∧ t'.trace = s'.trace ++ out

theorem SameOutput.raise (s s' : State) (c : Condition) : SameOutput s s' (.next (s.raise c)) (.next (s'.raise c)) := by
  obtain ⟨-, -, -, -, -, -, -, -, trace, -⟩ := raise_keeps s c
  obtain ⟨-, -, -, -, -, -, -, -, trace', -⟩ := raise_keeps s' c
  exact ⟨_, _, [], rfl, rfl, by rw [trace, List.append_nil], by rw [trace', List.append_nil]⟩

/-- Transfers of the same bits under one profile, each after SR and the latches of ENCODE were written. -/
theorem SameOutput.transfer {s s' r r' : State} (profile : s.cfg.profile = s'.cfg.profile) (bits : List Bool)
    (cfg : r.cfg = s.cfg := by rfl) (cfg' : r'.cfg = s'.cfg := by rfl)
    (trace : r.trace = s.trace := by rfl) (trace' : r'.trace = s'.trace := by rfl) :
    SameOutput s s' (.next (r.afterTransfer bits)) (.next (r'.afterTransfer bits)) :=
  ⟨_, _, transferTrace s.cfg.profile.timing bits, rfl, rfl, by rw [← cfg, ← trace]; rfl,
    by rw [profile, ← cfg', ← trace']; rfl⟩

section
variable {s s' : State} (ready : s.seq = .ready .idle) (ready' : s'.seq = .ready .idle)
  (profile : s.cfg.profile = s'.cfg.profile) (legal : frameBitsLegal s.cfg.profile = true)
  (free : s.undisturbed = true) (free' : s'.undisturbed = true)
include ready ready' profile legal free free'

theorem transmit_sameOutput (f : Frame) : SameOutput s s' (exec (.transmit f) s) (exec (.transmit f) s') := by
  rw [transmit_undisturbed ready legal free, transmit_undisturbed ready' (profile ▸ legal) free', ← profile]
  exact .transfer profile _

theorem sendRaw_sameOutput (symbols : List Byte) :
    SameOutput s s' (exec (.sendRaw symbols) s) (exec (.sendRaw symbols) s') := by
  by_cases long : symbols.length = s.cfg.profile.frameBits
  · cases bad : firstBadSymbol 0 symbols with
    | some symbol =>
      rw [sendRaw_rejects_character ready long bad, sendRaw_rejects_character ready' (profile ▸ long) bad]
      exact .raise s s' _
    | none =>
      rw [sendRaw_undisturbed ready legal free long bad,
        sendRaw_undisturbed ready' (profile ▸ legal) free' (profile ▸ long) bad]
      exact .transfer profile _
  · rw [sendRaw_rejects_length ready long, sendRaw_rejects_length ready' (profile ▸ long)]
    exact .raise s s' _

theorem sendTime_sameOutput (hours minutes : Int) :
    SameOutput s s' (exec (.sendTime hours minutes) s) (exec (.sendTime hours minutes) s') := by
  cases good : timeInRange hours minutes
  · rw [sendTime_rejects ready good, sendTime_rejects ready' good]
    exact .raise s s' _
  · rw [sendTime_undisturbed ready legal free good, sendTime_undisturbed ready' (profile ▸ legal) free' good, ← profile]
    exact .transfer profile _

end

/-- Settles O36: each of the three puts out nothing, or `T(SR)` of bits that depend on the profile and the operand alone. -/
theorem sameCommandSameTrace : Obligations.SameCommandSameTrace := by
  rintro s s' _ ready ready' profile legal free free' (⟨f, rfl⟩ | ⟨symbols, rfl⟩ | ⟨hours, minutes, rfl⟩)
  · exact transmit_sameOutput ready ready' profile legal free free' f
  · exact sendRaw_sameOutput ready ready' profile legal free free' symbols
  · exact sendTime_sameOutput ready ready' profile legal free free' hours minutes

end Sys2Proof.Machine

/-! PROOFS. The idle invariant (43_line_transport.md R230): what a step leaves the lines at, phase by phase. -/

namespace Sys2Proof.Machine

/-! ### The clauses about the lines -/

/-- The clauses of `IdleHigh` that speak of the lines. -/
structure RestsHigh (s : State) : Prop where
  clockHigh : s.seq = .ready .deasserting → s.lines.clk = true
  idle : s.seq = .ready .idle → s.faulted = false → s.linesIdle

theorem IdleHigh.restsHigh {s : State} (h : IdleHigh s) : RestsHigh s := ⟨h.clockHigh, h.idle⟩

/-- In most phases the invariant asks nothing of the lines. -/
theorem RestsHigh.of_elsewhere {s : State} (notDeasserting : s.seq ≠ .ready .deasserting)
    (notIdle : s.seq ≠ .ready .idle) : RestsHigh s :=
  ⟨fun h => absurd h notDeasserting, fun h => absurd h notIdle⟩

theorem RestsHigh.of_lines {s : State} (high : s.lines = { data := true, clk := true, en := true }) : RestsHigh s :=
  ⟨fun _ => by rw [high], fun _ _ => by simp [State.linesIdle, high]⟩

theorem RestsHigh.congr {s t : State} (h : RestsHigh s) (seq : t.seq = s.seq := by rfl)
    (lines : t.lines = s.lines := by rfl) (faulted : t.faulted = s.faulted := by rfl) : RestsHigh t := by
  obtain ⟨clockHigh, idle⟩ := h
  constructor
  · rwa [seq, lines]
  · rwa [seq, faulted, State.linesIdle, lines]

/-- A TransportFault is on record, and the block stands in READY(Idle) or CONFIG_FAULT (60_exceptions.md R305, R307). -/
theorem RestsHigh.raise_transportFault (s : State) (id : Line) (v : Level) :
    RestsHigh (s.raise (.transportFault id v)) where
  clockHigh h := by
    have seq : seqAfterFault s.seq = .ready .deasserting := h
    unfold seqAfterFault at seq
    split at seq <;> cases seq
  idle _ faulted := nomatch (faulted : true = false)

/-- However micro-operations end, it is enough to know the state they lead to when nothing disturbs them. -/
theorem conclude_restsHigh {ops : List MicroOp} {s t : State} (whole : RestsHigh (performAll ops s))
    (h : conclude (runMicro ops s) = .next t) : RestsHigh t := by
  obtain ⟨done, rest, n, split, outcome⟩ := conclude_cases ops s
  obtain ⟨hrest, ha⟩ | ⟨id, v, -, -, -, ha⟩ | ⟨-, -, ha⟩ := outcome <;> cases ha.symm.trans h
  · obtain rfl : ops = done := by simpa [hrest] using split
    rw [performAll_afterDraws]
    exact whole.congr
  · exact .raise_transportFault _ id v
  · exact .of_elsewhere nofun nofun

/-! ### Startup and transfers (10_state.md R25) -/

theorem lines_after_idleAssertOps (s : State) :
    (performAll idleAssertOps s).lines = { data := true, clk := true, en := true } := rfl

theorem idleAssert_restsHigh {s t : State} (h : RestsHigh s) (ht : exec .idleAssert s = .next t) : RestsHigh t := by
  change s.when s.atTraceEnd _ = _ at ht
  cases last : s.atTraceEnd
  · rw [when_not_taken last] at ht
    cases ht
    exact h
  · rw [last] at ht
    exact conclude_restsHigh (.of_lines (lines_after_idleAssertOps s)) ht

theorem stepReplay_restsHigh {s t : State} {k : Nat} (h : RestsHigh s) (ht : stepReplay k s = .next t) :
    RestsHigh t := by
  unfold stepReplay at ht
  split at ht
  · refine conclude_restsHigh ?_ ht
    rw [replayStepOps, performAll_append]
    exact .of_elsewhere nofun nofun
  · exact idleAssert_restsHigh h ht

theorem cellOrEnd_ne_idle (frameBits i : Nat) : cellOrEnd frameBits i ≠ .idle := by
  unfold cellOrEnd
  split <;> nofun

/-- A bit cell ends with the clock high, and Deasserting raises the other two lines. -/
theorem performAll_segmentOps_restsHigh {s : State} {x : Xfer} (sound : SequencerSound s) (h : RestsHigh s)
    (source : s.seq = .ready x) : RestsHigh (performAll (segmentOps s.cfg.profile s.srBit x) s) := by
  cases x with
  | idle => exact h
  | asserting =>
    have first : cellOrEnd s.cfg.profile.frameBits 0 = .shifting 0 :=
      if_pos (frameBits_pos_of_started sound (started_of_ready source))
    have seq : (performAll (segmentOps s.cfg.profile s.srBit .asserting) s).seq = .ready (.shifting 0) :=
      congrArg Seq.ready first
    exact .of_elsewhere (by rw [seq]; nofun) (by rw [seq]; nofun)
  | shifting i =>
    refine ⟨fun _ => rfl, fun seq => ?_⟩
    exact absurd (Seq.ready.inj seq) (cellOrEnd_ne_idle _ _)
  | deasserting => exact ⟨nofun, fun _ _ => ⟨rfl, h.clockHigh source, rfl⟩⟩

theorem stepTransfer_restsHigh {s t : State} {x : Xfer} (sound : SequencerSound s) (h : RestsHigh s)
    (source : s.seq = .ready x) (ht : stepTransfer x s = .next t) : RestsHigh t :=
  conclude_restsHigh (performAll_segmentOps_restsHigh sound h source) ht

/-! ### Commands (45_driver_commands.md R261 to R268) -/

theorem shiftout_restsHigh {s t : State} (legal : frameBitsLegal s.cfg.profile = true)
    (ht : conclude (shiftoutMicro s) = .next t) : RestsHigh t :=
  conclude_restsHigh (.of_lines (by rw [performAll_shiftoutOps s legal])) ht

theorem sendTime_restsHigh {s t : State} {hours minutes : Int} (legal : frameBitsLegal s.cfg.profile = true)
    (h : RestsHigh s) (ready : s.seq = .ready .idle) (ht : exec (.sendTime hours minutes) s = .next t) :
    RestsHigh t := by
  cases good : timeInRange hours minutes
  · cases (sendTime_rejects ready good).symm.trans ht
    exact h.congr
  · exact shiftout_restsHigh (s := (s.encode hours minutes).expand) legal ((sendTime_sends ready good).symm.trans ht)

theorem sendRaw_restsHigh {s t : State} {symbols : List Byte} (legal : frameBitsLegal s.cfg.profile = true)
    (h : RestsHigh s) (ready : s.seq = .ready .idle) (ht : exec (.sendRaw symbols) s = .next t) : RestsHigh t := by
  by_cases long : symbols.length = s.cfg.profile.frameBits
  · cases bad : firstBadSymbol 0 symbols with
    | some symbol =>
      cases (sendRaw_rejects_character ready long bad).symm.trans ht
      exact h.congr
    | none =>
      exact shiftout_restsHigh (s := { s with sr := symbolBits symbols }) legal
        ((sendRaw_sends ready long bad).symm.trans ht)
  · cases (sendRaw_rejects_length ready long).symm.trans ht
    exact h.congr

theorem reserved_restsHigh {s t : State} {op : Byte} (h : RestsHigh s) (ready : s.seq = .ready .idle)
    (ht : exec (reservedOf op) s = .next t) : RestsHigh t := by
  obtain ⟨op', -, rejects⟩ := reservedOf_rejects op
  cases ((rejects s).trans (rejectOpcode_of_ready ready op')).symm.trans ht
  exact h.congr

theorem stepIdle_restsHigh {s t : State} (legal : frameBitsLegal s.cfg.profile = true) (h : RestsHigh s)
    (ready : s.seq = .ready .idle) (ht : stepIdle s = .next t) : RestsHigh t := by
  unfold stepIdle at ht
  split at ht
  · rename_i i rest taken
    have before : RestsHigh { s with port := rest } := h.congr
    obtain ⟨hours, minutes, rfl⟩ | ⟨symbols, rfl⟩ | ⟨op, rfl⟩ := decodeCommand_reads taken
    · exact sendTime_restsHigh (s := { s with port := rest }) legal before ready ht
    · exact sendRaw_restsHigh (s := { s with port := rest }) legal before ready ht
    · exact reserved_restsHigh before ready ht
  · cases ht
    exact h.congr

/-! ### Every step -/

theorem load_restsHigh (s : State) : RestsHigh s.load := by
  obtain ⟨-, h⟩ | ⟨-, failed, h⟩ := load_cases s <;> rw [h] <;> exact .of_elsewhere nofun nofun

theorem step_restsHigh {s t : State} (sound : SequencerSound s) (h : RestsHigh s) (ht : step s = .next t) :
    RestsHigh t := by
  by_cases reset : s.env.head? = some .reset
  · cases (step_of_reset s reset).symm.trans ht
    exact .of_elsewhere nofun nofun
  · rw [step_without_reset s reset] at ht
    unfold stepSeq at ht
    split at ht <;> rename_i source
    · cases ht
      exact load_restsHigh s
    · exact stepReplay_restsHigh h ht
    · exact stepIdle_restsHigh (frameBitsLegal_of_started sound (started_of_ready source)) h source ht
    · exact stepTransfer_restsHigh sound h source ht
    · exact stepTransfer_restsHigh sound h source ht
    · exact stepTransfer_restsHigh sound h source ht
    · cases ht
      exact h.congr

/-- Settles O55: what a step leaves the lines at, and `stepKeepsSequencerSound` for the rest of the invariant. -/
theorem stepKeepsIdleHigh : Obligations.StepKeepsIdleHigh := by
  intro s t h ht
  obtain ⟨clockHigh, idle⟩ := step_restsHigh h.sound h.restsHigh ht
  exact ⟨stepKeepsSequencerSound s t h.sound ht, clockHigh, idle⟩

end Sys2Proof.Machine

/-! PROOFS. SETLINE and DELAY on their own (43_line_transport.md R220 to R222). -/

namespace Sys2Proof.Machine

theorem linesMayMove_iff {s : State} : s.linesMayMove = true ↔ s.seq ≠ .load ∧ s.seq ≠ .configFault := by
  unfold State.linesMayMove
  split <;> simp_all

/-- Where lines may move, SETLINE and DELAY are their micro-operations. -/
theorem exec_setline_of_linesMayMove {s : State} (phase : s.linesMayMove = true) (id : Line) (v : Level) :
    exec (.setline id v) s = conclude (runMicro [.setline id v] s) :=
  if_pos phase

theorem exec_delay_of_linesMayMove {s : State} (phase : s.linesMayMove = true) (t : Duration) :
    exec (.delay t) s = conclude (runMicro [.delay t] s) :=
  if_pos phase

theorem setline_undisturbed {s : State} (phase : s.linesMayMove = true) (free : s.undisturbed = true) (id : Line)
    (v : Level) : exec (.setline id v) s = .next { s with
      lines := s.lines.set id v, trace := s.trace ++ [.w id v], env := s.env.drop 1, result := .done } := by
  rw [exec_setline_of_linesMayMove phase, runMicro_undisturbed _ s free]
  rfl

theorem delay_undisturbed {s : State} (phase : s.linesMayMove = true) (free : s.undisturbed = true) (t : Duration) :
    exec (.delay t) s = .next { s with trace := s.trace ++ [.d t], env := s.env.drop 1, result := .done } := by
  rw [exec_delay_of_linesMayMove phase, runMicro_undisturbed _ s free]
  rfl

/-- Settles O40: both run to their end, and SETLINE writes its own line. -/
theorem microOperationsComplete : Obligations.MicroOperationsComplete := by
  intro s notLoad notFault free
  have phase := linesMayMove_iff.2 ⟨notLoad, notFault⟩
  refine ⟨fun id v => ⟨_, setline_undisturbed phase free id v, rfl, fun j => ?_⟩, delay_undisturbed phase free⟩
  simp only [Lines.get_set, eq_comm]

theorem setline_fails {s : State} {rest : List Draw} (draw : s.env = .fail :: rest) (canFail : s.cfg.ioCanFail = true)
    (id : Line) (v : Level) : runMicro [.setline id v] s = .stop { s with env := rest } (.writeFailed id v) := by
  simp [runMicro, attempt, trySetline, draw, canFail]

theorem setline_cannot_fail {s : State} {rest : List Draw} (draw : s.env = .fail :: rest)
    (cannotFail : s.cfg.ioCanFail = false) (id : Line) (v : Level) :
    runMicro [.setline id v] s = .go (State.write { s with env := rest } id v) := by
  simp [runMicro, attempt, trySetline, draw, cannotFail]

/-- Settles O41: a failed write is stopped before it changes anything, and raises TransportFault. -/
theorem failedWriteChangesNoLine : Obligations.FailedWriteChangesNoLine := by
  intro s id v notLoad notFault head
  have phase := linesMayMove_iff.2 ⟨notLoad, notFault⟩
  have draw : s.env = .fail :: s.env.tail := List.eq_cons_of_mem_head? head
  rw [exec_setline_of_linesMayMove phase]
  refine ⟨fun canFail => ?_, fun cannotFail => ?_⟩
  · rw [setline_fails draw canFail]
    exact ⟨_, rfl, rfl, fun x ready => congrArg seqAfterFault ready, fun k replay => congrArg seqAfterFault replay⟩
  · rw [setline_cannot_fail draw cannotFail]
    rfl

end Sys2Proof.Machine

/-! PROOFS. SHIFTOUT is the run through the transfer states: `step` does in each of them what SHIFTOUT does there, and the
result it leaves in between is overwritten (43_line_transport.md R205, 10_state.md R25). -/

namespace Sys2Proof.Machine

/-! ### The result plays no part in micro-operations -/

/-- The same end of micro-operations with another result in the state. -/
def Micro.returns : Micro → Result → Micro
  | .go s, r => .go (s.returns r)
  | .stop s why, r => .stop (s.returns r) why

theorem attempt_returns (op : MicroOp) (s : State) (r : Result) : attempt op (s.returns r) = (attempt op s).returns r := by
  rcases s with ⟨⟨profile, asset, tick, canFail⟩, seq, lines, frame, sr, ht, ho, mt, mo, delivered, trace, port, env,
    result, faulted, past⟩
  cases op with
  | goto q => rfl
  | complete => rfl
  | delay t => rcases env with _ | ⟨_ | _ | _, rest⟩ <;> rfl
  | setline id v =>
    rcases env with _ | ⟨_ | _ | _, rest⟩
    · rfl
    · rfl
    · cases canFail <;> rfl
    · rfl

theorem runMicro_returns (ops : List MicroOp) (s : State) (r : Result) :
    runMicro ops (s.returns r) = (runMicro ops s).returns r := by
  induction ops generalizing s with
  | nil => rfl
  | cons op ops ih =>
    rw [runMicro, runMicro, attempt_returns]
    cases attempt op s with
    | go s' => exact ih s'
    | stop s' why => rfl

/-- Every end of an operation made of micro-operations gives its own result. -/
theorem conclude_returns (m : Micro) (r : Result) : conclude (m.returns r) = conclude m := by
  rcases m with s | ⟨s, _ | _⟩ <;> rfl

theorem conclude_runMicro_returns (ops : List MicroOp) (s : State) (r : Result) :
    conclude (runMicro ops (s.returns r)) = conclude (runMicro ops s) := by
  rw [runMicro_returns, conclude_returns]

/-! ### One transfer state -/

/-- The micro-operations of a transfer state, in the state the transfer has come to. -/
def State.segment (s : State) (x : Xfer) : List MicroOp := segmentOps s.cfg.profile s.srBit x

theorem segment_eq_setline_cons (s : State) {x : Xfer} (inside : x ≠ .idle) :
    ∃ id v rest, s.segment x = .setline id v :: rest := by
  cases x with
  | idle => exact absurd rfl inside
  | asserting | shifting _ | deasserting => exact ⟨_, _, _, rfl⟩

/-- A reset that comes before a transfer state takes the place of its first line write. -/
theorem step_of_transfer {s : State} {x : Xfer} (inside : x ≠ .idle) (source : s.seq = .ready x) :
    step s = conclude (runMicro (s.segment x) s) := by
  by_cases reset : s.env.head? = some .reset
  · obtain ⟨id, v, rest, ops⟩ := segment_eq_setline_cons s inside
    have draw : s.env = .reset :: s.env.tail := List.eq_cons_of_mem_head? reset
    have stopped : attempt (.setline id v) s = .stop { s with env := s.env.tail } .reset := by
      simp only [attempt, trySetline]
      rw [draw]
      rfl
    rw [step_of_reset s reset, ops, runMicro, stopped]
    rfl
  · rw [step_without_reset s reset, stepSeq, source]
    cases x with
    | idle => exact absurd rfl inside
    | asserting | shifting _ | deasserting => rfl

theorem performAll_of_runMicro_go {ops : List MicroOp} {s s' : State} (h : runMicro ops s = .go s') :
    ∃ n, s' = performAll ops (s.afterDraws n) := by
  obtain ⟨done, rest, split, ⟨hrest, hrun⟩ | ⟨id, v, -, -, -, hrun⟩ | ⟨-, -, hrun⟩⟩ := runMicro_cases ops s <;>
    cases hrun.symm.trans h
  obtain rfl : ops = done := by simpa [hrest] using split
  exact ⟨_, rfl⟩

/-- A transfer state moves to the next one and changes nothing of what the transfer states read: the profile and SR. -/
theorem next_of_segment {s s' : State} {x y : Xfer} (advance : advanceOp s.cfg.profile.frameBits x = [.goto (.ready y)])
    (h : runMicro (s.segment x) s = .go s') : s'.seq = .ready y ∧ s'.cfg = s.cfg ∧ s'.segment = s.segment := by
  obtain ⟨n, rfl⟩ := performAll_of_runMicro_go h
  obtain ⟨cfg, -, sr, -, -, -, -, -, -, -, past, -⟩ := performAll_keeps (s.segment x) (s.afterDraws n)
  have bits : (performAll (s.segment x) (s.afterDraws n)).srBit = s.srBit := by
    funext i
    rw [State.srBit, State.run, sr, past]
    rfl
  refine ⟨?_, cfg, funext fun z => ?_⟩
  · rw [State.segment, segmentOps, advance, performAll_append]
    rfl
  · rw [State.segment, bits, cfg]
    rfl

/-! ### Runs of the sequencer -/

/-- From `s` the sequencer comes to the answer `a` in at least one and at most `n` steps. -/
def RunsTo (n : Nat) (s : State) (a : Answer) : Prop := ∃ m, 0 < m ∧ m ≤ n ∧ Host.Core.run Sys2Proof.core m s = a

theorem RunsTo.one {s t : State} (n : Nat) (h : step s = .next t) : RunsTo (n + 1) s (.next t) :=
  ⟨1, one_pos, by omega, run_succ Sys2Proof.core 0 s t h⟩

theorem RunsTo.cons {n : Nat} {s t : State} {a : Answer} (h : step s = .next t) (rest : RunsTo n t a) :
    RunsTo (n + 1) s a := by
  obtain ⟨m, -, short, answer⟩ := rest
  exact ⟨m + 1, m.succ_pos, Nat.succ_le_succ short, (run_succ Sys2Proof.core m s t h).trans answer⟩

/-- A transfer state, and what follows if it runs to its end; the result it leaves is overwritten. -/
theorem runsTo_of_transfer {s : State} {x y : Xfer} {ops : List MicroOp} {n : Nat} (inside : x ≠ .idle)
    (source : s.seq = .ready x) (advance : advanceOp s.cfg.profile.frameBits x = [.goto (.ready y)])
    (rest : ∀ s', s'.seq = .ready y → s'.cfg = s.cfg → s'.segment = s.segment →
      RunsTo n s' (conclude (runMicro ops s'))) :
    RunsTo (n + 1) s (conclude (runMicro (s.segment x ++ ops) s)) := by
  have first := step_of_transfer inside source
  rw [runMicro_append]
  cases outcome : runMicro (s.segment x) s with
  | go s' =>
    obtain ⟨target, cfg, segment⟩ := next_of_segment advance outcome
    rw [outcome] at first
    have after := rest (s'.returns .done) target cfg segment
    rw [conclude_runMicro_returns] at after
    exact .cons first after
  | stop s' why =>
    rw [outcome] at first
    obtain ⟨t, answer⟩ := conclude_answers (.stop s' why)
    rw [answer] at first ⊢
    exact .one n first

/-! ### The transfer -/

/-- The last `n` bit cells of a transfer, from cell `i` on, and Deasserting. -/
def cellsFrom (i n : Nat) : List Xfer := (List.range' i n).map Xfer.shifting ++ [.deasserting]

theorem transferStates_eq (frameBits : Nat) : transferStates frameBits = .asserting :: cellsFrom 0 frameBits := by
  simp [transferStates, cellsFrom, List.range_eq_range']

theorem cellsFrom_succ (i n : Nat) : cellsFrom i (n + 1) = .shifting i :: cellsFrom (i + 1) n := rfl

theorem cellsFrom_runsTo (n : Nat) {s : State} {i : Nat} (count : i + n = s.cfg.profile.frameBits)
    (source : s.seq = .ready (cellOrEnd s.cfg.profile.frameBits i)) :
    RunsTo (n + 1) s (conclude (runMicro ((cellsFrom i n).flatMap s.segment) s)) := by
  induction n generalizing s i with
  | zero =>
    have last : cellOrEnd s.cfg.profile.frameBits i = .deasserting := if_neg (by omega)
    rw [last] at source
    obtain ⟨t, answer⟩ := conclude_answers (runMicro (s.segment .deasserting) s)
    have whole : (cellsFrom i 0).flatMap s.segment = s.segment .deasserting := List.flatMap_singleton ..
    rw [whole, answer]
    exact .one 0 ((step_of_transfer (x := .deasserting) nofun source).trans answer)
  | succ n ih =>
    have cell : cellOrEnd s.cfg.profile.frameBits i = .shifting i := if_pos (by omega)
    rw [cell] at source
    rw [cellsFrom_succ, List.flatMap_cons]
    refine runsTo_of_transfer nofun source rfl fun s' target cfg segment => ?_
    rw [← segment]
    exact ih (by rw [cfg]; omega) (by rw [cfg, target])

/-- The transfer from Asserting on, as one run of micro-operations. -/
theorem transfer_runsTo {s : State} (source : s.seq = .ready .asserting) :
    RunsTo (s.cfg.profile.frameBits + 2) s
      (conclude (runMicro ((transferStates s.cfg.profile.frameBits).flatMap s.segment) s)) := by
  rw [transferStates_eq, List.flatMap_cons]
  refine runsTo_of_transfer nofun source rfl fun s' target cfg segment => ?_
  rw [← segment, ← cfg]
  exact cellsFrom_runsTo _ (Nat.zero_add _) (by rw [target, cfg])

/-- Settles O59: SHIFTOUT goes to Asserting and is then `transfer_runsTo`. -/
theorem shiftoutIsTheTransferStepByStep : Obligations.ShiftoutIsTheTransferStepByStep := by
  intro s ready
  have whole : exec .shiftout s = conclude (shiftoutMicro s) := when_ready s ready _
  rw [whole]
  exact transfer_runsTo (s := s.goto (.ready .asserting)) rfl

end Sys2Proof.Machine

/-! PROOFS. The waveform of a transfer that starts from idle lines (43_line_transport.md R213, 00_scope.md R15). -/

namespace Sys2Proof.Machine

/-! ### The level of a line along a trace -/

/-- No delay of a trace is negative. -/
def DelaysNonneg (events : List Event) : Prop := ∀ t, .d t ∈ events → 0 ≤ seconds t

theorem DelaysNonneg.append {xs ys : List Event} (hx : DelaysNonneg xs) (hy : DelaysNonneg ys) :
    DelaysNonneg (xs ++ ys) :=
  fun t mem => (List.mem_append.1 mem).elim (hx t) (hy t)

theorem DelaysNonneg.of_cons {e : Event} {xs : List Event} (h : DelaysNonneg (e :: xs)) : DelaysNonneg xs :=
  fun t mem => h t (List.mem_cons_of_mem e mem)

theorem traceDuration_nonneg {events : List Event} (h : DelaysNonneg events) : 0 ≤ traceDuration events := by
  induction events with
  | nil => exact le_rfl
  | cons e events ih =>
    have rest := ih h.of_cons
    cases e with
    | w id v => exact rest
    | d t => exact add_nonneg (h t List.mem_cons_self) rest

/-- A write that is still to come changes no level yet. -/
theorem levelFrom_of_lt {id j : Line} {v : Level} {at' now : ℝ} (before : at' < now) (level : Option Level)
    (rest : List Event) : levelFrom id at' now level (.w j v :: rest) = level :=
  if_neg (not_le.2 before)

/-- Events that are over have set each line they wrote to its last level. -/
theorem levelFrom_append_of_le {id : Line} {at' : ℝ} {xs : List Event} (delays : DelaysNonneg xs) (now : ℝ)
    (elapsed : now + traceDuration xs ≤ at') (level : Option Level) (ys : List Event) :
    levelFrom id at' now level (xs ++ ys) =
      levelFrom id at' (now + traceDuration xs) ((lastWrite id xs).or level) ys := by
  induction xs generalizing now level with
  | nil => simp [traceDuration, lastWrite]
  | cons e xs ih =>
    cases e with
    | d t =>
      rw [traceDuration, ← add_assoc] at elapsed ⊢
      exact ih delays.of_cons _ elapsed level
    | w j v =>
      have started : now ≤ at' := (le_add_of_nonneg_right (traceDuration_nonneg delays)).trans elapsed
      rw [List.cons_append, levelFrom, if_pos started, ih delays.of_cons now elapsed, lastWrite, Option.or_assoc]
      congr 2
      split <;> rfl

/-- Events that do not write a line only put off the next write. -/
theorem levelFrom_append_of_not_written {id : Line} {at' : ℝ} {xs : List Event} (delays : DelaysNonneg xs)
    (unwritten : lastWrite id xs = none) (now : ℝ) (level : Option Level) (j : Line) (v : Level) (rest : List Event) :
    levelFrom id at' now level (xs ++ .w j v :: rest) =
      levelFrom id at' (now + traceDuration xs) level (.w j v :: rest) := by
  induction xs generalizing now with
  | nil => simp [traceDuration]
  | cons e xs ih =>
    cases e with
    | d t =>
      rw [traceDuration, ← add_assoc]
      exact ih delays.of_cons unwritten _
    | w i u =>
      obtain ⟨later, other⟩ := Option.or_eq_none_iff.1 unwritten
      have notThis : i ≠ id := fun h => by simp [h] at other
      rw [List.cons_append]
      rcases le_or_gt now at' with started | before
      · rw [levelFrom, if_pos started, if_neg notThis]
        exact ih delays.of_cons later now
      · have still := before.trans_le (le_add_of_nonneg_right (traceDuration_nonneg delays))
        rw [levelFrom_of_lt before, levelFrom_of_lt still]

/-! ### The parts of a transfer -/

/-- When cell `i` starts, in seconds after the start of the transfer; also when the cells are over. -/
noncomputable def cellStart (t : Timing) (i : Nat) : ℝ := seconds t.tAssert + i * (seconds t.tLow + seconds t.tHigh)

theorem cellStart_succ (t : Timing) (i : Nat) : cellStart t (i + 1) = cellStart t i + (seconds t.tLow + seconds t.tHigh) := by
  simp only [cellStart]
  push_cast
  ring

/-- What a transfer puts out up to the end of the cells of `bits`, its first bits. -/
def beforeCell (t : Timing) (bits : List Bool) : List Event := [.w .en false, .d t.tAssert] ++ bits.flatMap (cellTrace t)

/-- What a transfer puts out in Deasserting. -/
def endTrace (t : Timing) : List Event := [.w .data true, .d t.tDataIdle, .w .en true, .d t.tFinal]

theorem transferTrace_append (t : Timing) (xs ys : List Bool) :
    transferTrace t (xs ++ ys) = beforeCell t xs ++ (ys.flatMap (cellTrace t) ++ endTrace t) := by
  simp [transferTrace, beforeCell, endTrace]

theorem traceDuration_beforeCell (t : Timing) (bits : List Bool) :
    traceDuration (beforeCell t bits) = cellStart t bits.length := by
  rw [beforeCell, traceDuration_append, traceDuration_flatMap_cellTrace]
  simp [traceDuration, cellStart]

/-- The clock is high before a transfer, and after each of its cells. -/
theorem clk_high_beforeCell (t : Timing) (bits : List Bool) :
    (lastWrite .clk (beforeCell t bits)).or (some true) = some true := by
  by_cases empty : bits = []
  · rw [empty]
    rfl
  · rw [beforeCell, lastWrite_append, lastWrite_clk_flatMap_cellTrace t empty]
    rfl

theorem lastWrite_en_flatMap_cellTrace (t : Timing) (bits : List Bool) :
    lastWrite .en (bits.flatMap (cellTrace t)) = none := by
  induction bits with
  | nil => rfl
  | cons b bits ih =>
    rw [List.flatMap_cons, lastWrite_append, ih]
    rfl

/-- Behind a cell comes the next one or Deasserting, and both begin with a write to DATA. -/
theorem next_writes_data (t : Timing) (bits : List Bool) :
    ∃ v rest, bits.flatMap (cellTrace t) ++ endTrace t = .w .data v :: rest := by
  cases bits with
  | nil => exact ⟨_, _, rfl⟩
  | cons b bits => exact ⟨_, _, rfl⟩

/-! ### DATA and CLK, part by part -/

section
variable {t : Timing} (assert : 0 ≤ seconds t.tAssert) (low : 0 ≤ seconds t.tLow) (high : 0 ≤ seconds t.tHigh)

include low high in
theorem delaysNonneg_flatMap_cellTrace (bits : List Bool) : DelaysNonneg (bits.flatMap (cellTrace t)) := by
  intro d mem
  obtain ⟨b, -, mem⟩ := List.mem_flatMap.1 mem
  obtain rfl | rfl : d = t.tLow ∨ d = t.tHigh := by simpa [cellTrace] using mem
  · exact low
  · exact high

include assert low high in
theorem delaysNonneg_beforeCell (bits : List Bool) : DelaysNonneg (beforeCell t bits) := by
  refine .append (fun d mem => ?_) (delaysNonneg_flatMap_cellTrace low high bits)
  obtain rfl : d = t.tAssert := by simpa using mem
  exact assert

include assert low high in
/-- The first cells are over when the next one starts, and what they leave counts. -/
theorem waveform_from_cellStart (id : Line) {time : ℝ} (xs ys : List Bool) (started : cellStart t xs.length ≤ time) :
    waveform (fun _ => some true) (transferTrace t (xs ++ ys)) id time =
      levelFrom id time (cellStart t xs.length) ((lastWrite id (beforeCell t xs)).or (some true))
        (ys.flatMap (cellTrace t) ++ endTrace t) := by
  have duration : 0 + traceDuration (beforeCell t xs) = cellStart t xs.length := by
    rw [zero_add, traceDuration_beforeCell]
  rw [waveform, transferTrace_append, levelFrom_append_of_le (delaysNonneg_beforeCell assert low high xs) 0
    (duration.trans_le started), duration]

end

/-- In a cell, from its start to the next write of DATA, DATA has the bit, and CLK is low for `tLow` and then high. -/
theorem levelFrom_cell (t : Timing) {now time : ℝ} (started : now ≤ time)
    (running : time < now + (seconds t.tLow + seconds t.tHigh)) (data clk : Option Level) (b v : Bool)
    (rest : List Event) :
    levelFrom .data time now data (cellTrace t b ++ .w .data v :: rest) = some b ∧
    levelFrom .clk time now clk (cellTrace t b ++ .w .data v :: rest) =
      some (decide (now + seconds t.tLow ≤ time)) := by
  rw [← add_assoc, ← not_le] at running
  by_cases clockHigh : now + seconds t.tLow ≤ time <;> simp [cellTrace, levelFrom, started, running, clockHigh]

/-- In Deasserting and after it DATA is high, and CLK is as the last cell left it. -/
theorem levelFrom_endTrace (t : Timing) {now time : ℝ} (started : now ≤ time) (data clk : Option Level) :
    levelFrom .data time now data (endTrace t) = some true ∧ levelFrom .clk time now clk (endTrace t) = clk := by
  simp [endTrace, levelFrom, started]

/-! ### EN -/

/-- What a transfer puts out between its two writes to EN. -/
def enLowTrace (t : Timing) (bits : List Bool) : List Event :=
  .d t.tAssert :: bits.flatMap (cellTrace t) ++ [.w .data true, .d t.tDataIdle]

theorem transferTrace_eq_enLowTrace (t : Timing) (bits : List Bool) :
    transferTrace t bits = .w .en false :: (enLowTrace t bits ++ .w .en true :: [.d t.tFinal]) := by
  simp [transferTrace, enLowTrace]

theorem traceDuration_enLowTrace (t : Timing) (bits : List Bool) :
    traceDuration (enLowTrace t bits) = cellStart t bits.length + seconds t.tDataIdle := by
  rw [enLowTrace, traceDuration_append, traceDuration, traceDuration_flatMap_cellTrace]
  simp [traceDuration, cellStart]

theorem lastWrite_en_enLowTrace (t : Timing) (bits : List Bool) : lastWrite .en (enLowTrace t bits) = none := by
  have cells : lastWrite .en (.d t.tAssert :: bits.flatMap (cellTrace t)) = none := lastWrite_en_flatMap_cellTrace t bits
  rw [enLowTrace, lastWrite_append, cells]
  rfl

/-! ### The whole waveform -/

section
variable {t : Timing} (assert : 0 ≤ seconds t.tAssert) (low : 0 ≤ seconds t.tLow) (high : 0 ≤ seconds t.tHigh)
  (bits : List Bool) {time : ℝ} (time_nonneg : 0 ≤ time)

include assert low high time_nonneg in
theorem waveform_en (dataIdle : 0 ≤ seconds t.tDataIdle) : waveform (fun _ => some true) (transferTrace t bits) .en time =
    some (decide (cellStart t bits.length + seconds t.tDataIdle ≤ time)) := by
  have delays : DelaysNonneg (enLowTrace t bits) := by
    refine .append ?_ ?_
    · exact (delaysNonneg_beforeCell assert low high bits).of_cons
    · intro d mem
      obtain rfl : d = t.tDataIdle := by simpa using mem
      exact dataIdle
  rw [waveform, transferTrace_eq_enLowTrace, levelFrom, if_pos time_nonneg,
    levelFrom_append_of_not_written delays (lastWrite_en_enLowTrace t bits), zero_add, traceDuration_enLowTrace]
  by_cases ended : cellStart t bits.length + seconds t.tDataIdle ≤ time <;> simp [levelFrom, ended]

include time_nonneg in
theorem waveform_asserting (asserting : time < seconds t.tAssert) {id : Line} (notEn : id ≠ .en) :
    waveform (fun _ => some true) (transferTrace t bits) id time = some true := by
  obtain ⟨v, rest, next⟩ := next_writes_data t bits
  rw [waveform, ← List.nil_append bits, transferTrace_append, next]
  simp [beforeCell, levelFrom, time_nonneg, notEn.symm, not_le.2 asserting]

include assert low high in
theorem waveform_cell {i : Nat} {b : Bool} (bit : bits[i]? = some b) (started : cellStart t i ≤ time)
    (running : time < cellStart t (i + 1)) :
    waveform (fun _ => some true) (transferTrace t bits) .data time = some b ∧
    waveform (fun _ => some true) (transferTrace t bits) .clk time =
      some (decide (cellStart t i + seconds t.tLow ≤ time)) := by
  obtain ⟨inside, rfl⟩ := List.getElem?_eq_some_iff.1 bit
  have length : (bits.take i).length = i := List.length_take_of_le inside.le
  obtain ⟨v, rest, next⟩ := next_writes_data t (bits.drop (i + 1))
  have level (id : Line) := waveform_from_cellStart assert low high id (bits.take i) (bits.drop i) (length.symm ▸ started)
  rw [List.take_append_drop, length, List.drop_eq_getElem_cons inside] at level
  simp only [List.flatMap_cons, List.append_assoc, next] at level
  rw [cellStart_succ] at running
  rw [level, level]
  exact levelFrom_cell t started running _ _ _ v rest

include assert low high in
theorem waveform_deasserting (ended : cellStart t bits.length ≤ time) :
    waveform (fun _ => some true) (transferTrace t bits) .data time = some true ∧
    waveform (fun _ => some true) (transferTrace t bits) .clk time = some true := by
  have level (id : Line) := waveform_from_cellStart assert low high id bits [] ended
  simp only [List.append_nil, List.flatMap_nil, List.nil_append] at level
  rw [level, level, clk_high_beforeCell]
  exact levelFrom_endTrace t ended _ _

end

/-- Settles O37: EN between its two writes, and DATA and CLK in Asserting, in each cell, and in Deasserting. -/
theorem transferWaveform : Obligations.TransferWaveform := by
  intro t bits assert low high dataIdle level start cells time time_nonneg
  have en := waveform_en assert low high bits time_nonneg dataIdle
  refine ⟨fun before => ?_, fun ended => ?_, fun asserting => ?_, fun i b bit started running => ?_,
    waveform_deasserting assert low high bits⟩
  · exact en.trans (congrArg some (decide_eq_false (not_le.2 before)))
  · exact en.trans (congrArg some (decide_eq_true ended))
  · exact ⟨waveform_asserting bits time_nonneg asserting nofun, waveform_asserting bits time_nonneg asserting nofun⟩
  · obtain ⟨data, clk⟩ := waveform_cell assert low high bits bit started running
    exact ⟨data, fun before => clk.trans (congrArg some (decide_eq_false (not_le.2 before))),
      fun ended => clk.trans (congrArg some (decide_eq_true ended))⟩

end Sys2Proof.Machine

/-! PROOFS. The startup replay (44_startup_replay.md R240 to R245): what TRACE_EVENT, REPLAY and IDLE_ASSERT leave when nothing
disturbs them. -/

namespace Sys2Proof.Machine

/-- Undisturbed, an operation made of micro-operations ends as all of them leave it, with one draw used up for each of its
events. -/
theorem conclude_undisturbed (ops : List MicroOp) {s : State} (free : s.undisturbed = true) :
    conclude (runMicro ops s) = .next (((performAll ops s).afterDraws (opsTrace ops).length).returns .done) := by
  rw [runMicro_undisturbed ops s free, performAll_afterDraws]
  rfl

/-! ### One event (R242, R243) -/

/-- The levels an event puts the lines at. -/
def ReplayEvent.lines (e : ReplayEvent) : Lines := { data := e.data, clk := e.clock, en := e.enable }

/-- All three lines are written, so nothing is left of the levels before. -/
theorem performAll_eventOps (e : ReplayEvent) (s : State) :
    performAll (eventOps e) s = { s with lines := e.lines, trace := s.trace ++ eventTrace e } := by
  have writes (t : State) : performAll [.setline .data e.data, .setline .clk e.clock, .setline .en e.enable] t =
      { t with lines := e.lines, trace := t.trace ++ [.w .data e.data, .w .clk e.clock, .w .en e.enable] } := by
    simp [MicroOp.perform, State.write, Lines.set, ReplayEvent.lines]
  unfold eventOps eventTrace
  rw [performAll_append, writes]
  split <;> simp [MicroOp.perform, State.wait]

theorem applyEvent_undisturbed {s : State} (free : s.undisturbed = true) (k : Nat) (e : ReplayEvent) :
    applyEvent k e s = .next { s with
      lines := e.lines, seq := .replay (k + 1), trace := s.trace ++ eventTrace e,
      env := s.env.drop (eventTrace e).length, result := .done } := by
  have out : opsTrace (replayStepOps k e) = eventTrace e := by
    simp [replayStepOps, opsTrace_eventOps, opTrace]
  rw [applyEvent, conclude_undisturbed _ free, out, replayStepOps, performAll_append, performAll_eventOps]
  rfl

theorem exec_traceEvent_of_inside {s : State} {k : Nat} (phase : s.seq = .replay k) (inside : k < s.traceLength)
    (data clock enable : Level) (delay : BitVec 29) : exec (.traceEvent data clock enable delay) s =
      applyEvent k (recordEvent s.cfg.traceTick data clock enable delay) s := by
  simp [exec, execTraceEvent, phase, State.when, inside]

/-- Settles O42: the wait is there when the machine finds the delay positive, which is the comparison of its seconds. -/
theorem traceEventWaitsThenWritesThreeLines : Obligations.TraceEventWaitsThenWritesThreeLines := by
  intro s k d c e ticks phase inside free dly
  refine ⟨seconds_times _ _, if dly.positive then [.d dly] else [], fun waits => ?_, fun noWait => ?_, ?_⟩
  · exact if_pos ((positive_iff dly).2 waits)
  · exact if_neg fun positive => not_lt.2 noWait ((positive_iff dly).1 positive)
  · exact (exec_traceEvent_of_inside phase inside d c e ticks).trans (applyEvent_undisturbed free k _)

/-! ### The whole trace (R240, R244) -/

theorem opsTrace_replayOps (k : Nat) (events : List ReplayEvent) : opsTrace (replayOps k events) = replayTrace events := by
  induction events generalizing k with
  | nil => rfl
  | cons e rest ih => simp [replayOps, replayTrace, opTrace, opsTrace_eventOps, ih]

/-- From event `k` on, all of `events`: each is applied to what the one before it left, and the last one's levels stay. -/
theorem performAll_replayOps (k : Nat) (events : List ReplayEvent) (s : State) :
    performAll (replayOps k events) s = { s with
      lines := (events.getLast?.map ReplayEvent.lines).getD s.lines
      seq := .replay (k + events.length)
      trace := s.trace ++ replayTrace events } := by
  induction events generalizing k s with
  | nil => simp [replayOps, replayTrace, MicroOp.perform, State.goto]
  | cons e rest ih =>
    have lines : ((e :: rest).getLast?.map ReplayEvent.lines).getD s.lines =
        (rest.getLast?.map ReplayEvent.lines).getD e.lines := by
      simp [List.getLast?_cons, Option.getD_map]
    have index : k + (e :: rest).length = k + 1 + rest.length := by
      rw [List.length_cons]
      omega
    have trace : replayTrace (e :: rest) = eventTrace e ++ replayTrace rest := List.flatMap_cons
    rw [lines, index, trace, ← List.append_assoc, replayOps, List.cons_append, performAll_cons, performAll_append,
      performAll_eventOps, ih]
    rfl

/-- Settles O43: `performAll_replayOps` from event 0 on. -/
theorem replayAppliesEveryEvent : Obligations.ReplayAppliesEveryEvent := by
  intro s start free
  have begins : exec .replay s = conclude (runMicro (replayOps 0 (traceEvents s.cfg)) s) :=
    if_pos (beq_iff_eq.2 start)
  rw [begins, conclude_undisturbed _ free, opsTrace_replayOps, performAll_replayOps, Nat.zero_add]
  cases (traceEvents s.cfg).getLast? <;> rfl

/-! ### IDLE_ASSERT (R245) -/

theorem atTraceEnd_of_end {s : State} (last : s.seq = .replay s.traceLength) : s.atTraceEnd = true := by
  simp [State.atTraceEnd, last]

theorem performAll_idleAssertOps (s : State) : performAll idleAssertOps s = { s with
    lines := { data := true, clk := true, en := true }, seq := .ready .idle, delivered := s.delivered ++ [.ok],
    trace := s.trace ++ idleAssertTrace, faulted := false } := by
  simp [idleAssertOps, idleAssertTrace, MicroOp.perform, State.write, State.complete, Lines.set, Config.idleLevel]

/-- Settles O44: the three writes of the idle level, and the end of startup. -/
theorem idleAssertEndsStartup : Obligations.IdleAssertEndsStartup := by
  intro s last free
  have begins : exec .idleAssert s = conclude (runMicro idleAssertOps s) := if_pos (atTraceEnd_of_end last)
  rw [begins, conclude_undisturbed _ free, performAll_idleAssertOps]
  rfl

end Sys2Proof.Machine

/-! PROOFS. The host commands (45_driver_commands.md R261 to R268): SEND_TIME and SEND_RAW when nothing disturbs them, the
reserved opcodes, and commands that are not taken. -/

namespace Sys2Proof.Machine

/-! ### SEND_TIME (R261) -/

/-- Settles O27: `sendTime_undisturbed`, whose SR is what EXPAND makes of the frame that ENCODE left. -/
theorem sendTimeTransfersTheFrame : Obligations.SendTimeTransfersTheFrame := by
  intro s hours minutes ready legal free hours_nonneg hours_le minutes_nonneg minutes_le
  have valid := timeInRange_iff.2 ⟨hours_nonneg, hours_le, minutes_nonneg, minutes_le⟩
  exact ⟨(s.encode hours minutes).expand.returns .done, rfl, sendTime_undisturbed ready legal free valid, rfl⟩

/-! ### SEND_RAW (R263, R266, R267) -/

/-- Settles O28: binary digits pass the character check, and their bits are sent. -/
theorem sendRawTransfersTheString : Obligations.SendRawTransfersTheString := by
  intro s symbols ready legal free long digits
  rw [sendRaw_undisturbed ready legal free long (firstBadSymbol_of_digits digits 0), symbolBits_of_digits digits]

/-- The symbol that stands for a bit (30_encoding.md R94). -/
def bitSymbol (b : Bool) : Byte := if b = true then 0x31#8 else 0x30#8

theorem bitSymbol_digit (b : Bool) : bitSymbol b = 0x30#8 ∨ bitSymbol b = 0x31#8 := by
  cases b
  · exact .inl rfl
  · exact .inr rfl

theorem symbolBit_bitSymbol (b : Bool) : symbolBit (bitSymbol b) = some b := by cases b <;> rfl

theorem symbolBits_map_bitSymbol (bits : List Bool) : symbolBits (bits.map bitSymbol) = bits := by
  simp [symbolBits, Function.comp_def, symbolBit_bitSymbol]

/-- Settles O29: the bits are sent as the string of their symbols, which is short enough for its length byte. -/
theorem sendRawReachesEveryBitSequence : Obligations.SendRawReachesEveryBitSequence := by
  intro s bits ready legal free long
  have symbols_long : (bits.map bitSymbol).length = s.cfg.profile.frameBits := by rw [List.length_map, long]
  have digits : ∀ b ∈ bits.map bitSymbol, b = 0x30#8 ∨ b = 0x31#8 :=
    List.forall_mem_map.2 fun b _ => bitSymbol_digit b
  have sends := sendRaw_undisturbed ready legal free symbols_long (firstBadSymbol_of_digits digits 0)
  rw [symbolBits_map_bitSymbol] at sends
  have short : (bits.map bitSymbol).length ≤ 255 := by
    obtain frameBits | frameBits := frameBits_of_legal legal <;> omega
  exact ⟨bits.map bitSymbol, _, decide_eq_true short, sends, rfl, rfl⟩

/-! ### The reserved opcodes (R268, 30_encoding.md R99) -/

/-- A command of one byte is the rejection of that byte. -/
theorem exec_of_opcode {i : Instr} {op : Byte} (code : encodeCommand i = some [op]) (s : State) :
    exec i s = rejectOpcode op s := by
  obtain ⟨-, -, rfl⟩ := opcode_of_encodeCommand code
  obtain ⟨op', code', rejects⟩ := reservedOf_rejects op
  cases code.symm.trans code'
  exact rejects s

theorem opcode_invalidCommand {i : Instr} {op : Byte} (code : encodeCommand i = some [op]) {s : State}
    (ready : s.seq = .ready .idle) : exec i s = .next (s.afterRejection (.invalidCommand op) .invalidCommand) :=
  (exec_of_opcode code s).trans (rejectOpcode_of_ready ready op)

/-- Settles O32: the opcode is read as its RESERVED row, whose one byte is the opcode. -/
theorem reservedOpcodeIsInvalidCommand : Obligations.ReservedOpcodeIsInvalidCommand := by
  refine ⟨rfl, fun op rest notTime notRaw => ?_⟩
  have code := encodeCommand_reservedOf op notTime notRaw
  exact ⟨reservedOf op, decodeCommand_reserved notTime notRaw rest, code, fun s ready => opcode_invalidCommand code ready⟩

/-- Settles O33: `opcode_invalidCommand` of each row's byte. -/
theorem eachReservedRowCompletes : Obligations.EachReservedRowCompletes := by
  intro s ready
  exact ⟨opcode_invalidCommand rfl ready, opcode_invalidCommand rfl ready,
    fun _ => opcode_invalidCommand rfl ready, fun _ => opcode_invalidCommand rfl ready,
    fun _ => opcode_invalidCommand rfl ready, fun _ => opcode_invalidCommand rfl ready,
    fun _ => opcode_invalidCommand rfl ready, fun _ => opcode_invalidCommand rfl ready⟩

/-! ### Commands that are not taken (R262) -/

/-- Settles O34: SEND_TIME, SEND_RAW and the commands of one byte each stand behind `ready`. -/
theorem commandsAreNotTakenUnlessReady : Obligations.CommandsAreNotTakenUnlessReady := by
  intro s i notReady command
  obtain ⟨bytes, code⟩ := Option.isSome_iff_exists.1 command
  obtain ⟨hours, minutes, rfl⟩ | ⟨symbols, rfl⟩ | ⟨op, rfl⟩ := encodeCommand_cases code
  · exact when_not_ready s notReady _
  · exact when_not_ready s notReady _
  · exact (exec_of_opcode code s).trans (when_not_ready s notReady _)

end Sys2Proof.Machine

/-! PROOFS. The failure conditions (60_exceptions.md): what a rejected operation leaves, what a failed line write leaves of a
transfer and of startup, and that every operation and step answers a next state. -/

namespace Sys2Proof.Machine

/-! ### Rejections (R302 to R304) -/

theorem timeInRange_eq_false {hours minutes : Int} (out : hours < 0 ∨ 23 < hours ∨ minutes < 0 ∨ 59 < minutes) :
    timeInRange hours minutes = false := by
  refine Bool.eq_false_iff.2 fun valid => ?_
  obtain ⟨hours_nonneg, hours_le, minutes_nonneg, minutes_le⟩ := timeInRange_iff.1 valid
  omega

/-- ENCODE stands behind no `ready`: it rejects in every state (42_frame_encoder.md R171; log entry 28). -/
theorem encode_rejects {hours minutes : Int} (bad : timeInRange hours minutes = false) (s : State) :
    exec (.encode hours minutes) s = .next (s.raise (.invalidInput hours minutes)) :=
  if_neg (Bool.eq_false_iff.1 bad)

/-- Settles O17: out of range, both end in `raise`, which here is a rejection. -/
theorem invalidInputChangesNothing : Obligations.InvalidInputChangesNothing := by
  refine ⟨rfl, fun s hours minutes out => ?_⟩
  have bad := timeInRange_eq_false out
  exact ⟨encode_rejects bad s, fun ready => sendTime_rejects ready bad⟩

/-- Settles O30: the length check comes first, so the symbols are not looked at. -/
theorem invalidLengthChangesNothing : Obligations.InvalidLengthChangesNothing :=
  ⟨rfl, fun _ _ ready bad => sendRaw_rejects_length ready bad⟩

theorem symbolBit_eq_none {b : Byte} (notZero : b ≠ 0x30#8) (notOne : b ≠ 0x31#8) : symbolBit b = none := by
  rw [symbolBit, if_neg notZero, if_neg notOne]

/-- Behind binary digits, the first bad symbol is found at its position. -/
theorem firstBadSymbol_of_split {good : List Byte} (digits : ∀ b ∈ good, b = 0x30#8 ∨ b = 0x31#8) {bad : Byte}
    (noBit : symbolBit bad = none) (rest : List Byte) (n : Nat) :
    firstBadSymbol n (good ++ bad :: rest) = some (n + good.length, bad) := by
  induction good generalizing n with
  | nil => simp [firstBadSymbol, noBit]
  | cons b good ih =>
    rw [List.forall_mem_cons] at digits
    have index : n + (b :: good).length = n + 1 + good.length := by
      rw [List.length_cons]
      omega
    rw [List.cons_append, firstBadSymbol, symbolBit_of_digit digits.1, index]
    exact ih digits.2 (n + 1)

/-- Settles O31: the character check finds the first symbol that is no binary digit. -/
theorem invalidCharacterChangesNothing : Obligations.InvalidCharacterChangesNothing := by
  refine ⟨rfl, fun s good rest bad ready digits notZero notOne long => ?_⟩
  have found := firstBadSymbol_of_split digits (symbolBit_eq_none notZero notOne) rest 0
  rw [Nat.zero_add] at found
  exact sendRaw_rejects_character ready long found

/-! ### LOAD (R306) -/

theorem step_of_load {s : State} (source : s.seq = .load) (noReset : s.env.head? ≠ some .reset) :
    step s = .next s.load := by
  rw [step_without_reset s noReset, stepSeq, source]
  rfl

theorem load_passes {s : State} (check : setupOk s.cfg = true) : s.load = s.goto (.replay 0) := by
  obtain ⟨-, passes⟩ | ⟨fails, -⟩ := load_cases s
  · exact passes
  · simp [check] at fails

theorem load_fails {s : State} (failures : setupFailures s.cfg ≠ []) :
    s.load = s.raise (.configurationError (setupFailures s.cfg)) := by
  unfold State.load
  split
  · contradiction
  · rfl

/-- Settles O9: what the condition records is every check that failed. -/
theorem loadChecksTheConfiguration : Obligations.LoadChecksTheConfiguration := by
  intro s source noReset
  rw [step_of_load source noReset]
  refine ⟨fun check => by rw [load_passes check]; rfl, fun check => ?_⟩
  have failures : setupFailures s.cfg ≠ [] := List.isEmpty_eq_false_iff.1 check
  exact ⟨setupFailures s.cfg, failures, by rw [load_fails failures]; rfl⟩

/-! ### Every operation and step answers a next state (R312, R313) -/

theorem Runs.answers {s : State} {a : Answer} (h : Runs s a) : ∃ t, a = .next t := by
  obtain ⟨t, ha, -⟩ | ⟨ops, r, ha, -⟩ := h
  · exact ⟨t, ha⟩
  · exact ha ▸ conclude_answers _

/-- Settles O48: what runs micro-operations answers by `conclude`, and everything else answers at once. -/
theorem everyOperationAnswersANextState : Obligations.EveryOperationAnswersANextState := by
  refine ⟨fun i s => (exec_runs i s).answers, fun s => ?_⟩
  obtain ⟨-, reset⟩ | ⟨-, load⟩ | ⟨-, fault⟩ | ⟨-, runs⟩ := step_cases s
  · exact ⟨_, reset⟩
  · exact ⟨_, load⟩
  · exact ⟨_, fault⟩
  · exact runs.answers

/-! ### A failed line write (R305, R307, 43_line_transport.md R222) -/

/-- `answer` is what is left of an operation of output `events`, started in `s`, whenever the environment fails one of its line
writes after letting all before it pass: what stands before that write went out, and the sequencer is in `q`. -/
def FaultsInto (q : Seq) (events : List Event) (s : State) (answer : Answer) : Prop :=
  ∀ (k : Nat) (id : Line) (v : Level), events[k]? = some (.w id v) →
    (∀ j, j < k → s.env[j]? = some .pass) → s.env[k]? = some .fail →
    ∃ t, answer = .next t ∧
      t = { s with lines := t.lines, seq := q, trace := s.trace ++ events.take k,
                   delivered := s.delivered ++ [.transportFault], env := s.env.drop (k + 1),
                   result := .raised (.transportFault id v), faulted := true } ∧
      ∀ j, t.lines.get j = (lastWrite j (events.take k)).getD (s.lines.get j)

theorem opTrace_eq_write {op : MicroOp} {id : Line} {v : Level} (h : opTrace op = [.w id v]) : op = .setline id v := by
  cases op <;> cases h
  rfl

theorem attempt_setline_of_fail {s : State} (draw : s.env.head? = some .fail) (canFail : s.cfg.ioCanFail = true)
    (id : Line) (v : Level) : attempt (.setline id v) s = .stop (s.afterDraws 1) (.writeFailed id v) := by
  have env : s.env = .fail :: s.env.tail := List.eq_cons_of_mem_head? draw
  rw [attempt, trySetline, env]
  simp [canFail, State.afterDraws]

/-- A failed write, behind draws that let all before it pass. -/
theorem runMicro_of_failed_write {done rest : List MicroOp} {s : State} {id : Line} {v : Level}
    (canFail : s.cfg.ioCanFail = true) (pass : ∀ j, j < drawsUsed done → s.env[j]? = some .pass)
    (fail : s.env[drawsUsed done]? = some .fail) :
    runMicro (done ++ .setline id v :: rest) s =
      .stop (performAll done (s.afterDraws (drawsUsed done + 1))) (.writeFailed id v) := by
  rw [runMicro_passes done _ s pass, performAll_afterDraws, performAll_afterDraws, runMicro]
  obtain ⟨cfg, -, -, -, -, -, -, -, env, -⟩ := performAll_keeps done s
  rw [attempt_setline_of_fail (by simp [State.afterDraws, env, fail]) (by simp [State.afterDraws, cfg, canFail])]
  simp [State.afterDraws]

/-- The micro-operations of `body` up to the failed write are all that is done, whatever would come after them. -/
theorem conclude_faultsInto {body : List MicroOp} {s : State} (stays : StaysOn s.seq body)
    (canFail : s.cfg.ioCanFail = true) (tail : List MicroOp) :
    FaultsInto (seqAfterFault s.seq) (opsTrace body) s (conclude (runMicro (body ++ tail) s)) := by
  intro k id v write pass fail
  obtain ⟨done, op, rest, rfl, sent, out⟩ := opsTrace_split body k _ write
  obtain rfl := opTrace_eq_write out
  have draws : drawsUsed done = k := by
    rw [drawsUsed, sent, List.length_take_of_le (List.getElem?_eq_some_iff.1 write).1.le]
  subst draws
  rw [List.append_assoc, List.cons_append, runMicro_of_failed_write canFail pass fail, ← sent]
  have part : StaysOn s.seq done := fun op mem => stays op (List.mem_append_left _ mem)
  obtain ⟨side, told⟩ := performAll_staysOn done (s.afterDraws (drawsUsed done + 1)) part
  obtain ⟨cfg, frame, sr, ht, ho, mt, mo, port, env, -, past, trace⟩ :=
    performAll_keeps done (s.afterDraws (drawsUsed done + 1))
  refine ⟨_, rfl, ?_, performAll_lines done (s.afterDraws (drawsUsed done + 1))⟩
  exact State.ext_fields _ _ cfg side rfl frame sr ht ho mt mo (congrArg (· ++ [Status.transportFault]) told) trace port env
    rfl rfl past

/-- Settles O38: a failed write in READY leads to READY(Idle), where SHIFTOUT started. -/
theorem transportFaultAbandonsTheTransfer : Obligations.TransportFaultAbandonsTheTransfer := by
  refine ⟨rfl, fun s k id v ready canFail => ?_⟩
  have begins : exec .shiftout s = conclude (runMicro (shiftoutBody s.cfg.profile s.srBit ++ [.complete]) s) := by
    rw [← shiftoutOps_eq]
    exact when_ready s ready _
  have stays : StaysOn s.seq (shiftoutBody s.cfg.profile s.srBit) := ready ▸ staysOn_shiftoutBody .idle _ _
  have faults := conclude_faultsInto stays canFail [.complete]
  have stayed : seqAfterFault s.seq = s.seq := by rw [ready]; rfl
  rw [← begins, opsTrace_shiftoutBody, stayed] at faults
  exact faults k id v

/-! ### A failed line write in startup (R307) -/

/-- Before a failed write that all draws before it let through, no reset comes. -/
theorem FaultsInto.of_stepSeq {q : Seq} {events : List Event} {s : State} (h : FaultsInto q events s (stepSeq s)) :
    FaultsInto q events s (step s) := by
  intro k id v write pass fail
  have noReset : s.env.head? ≠ some .reset := by
    rw [List.head?_eq_getElem?]
    cases k with
    | zero => simp [fail]
    | succ k => simp [pass 0 k.succ_pos]
  rw [step_without_reset s noReset]
  exact h k id v write pass fail

theorem staysOn_replayOps (k n : Nat) (events : List ReplayEvent) : StaysOn (.replay n) (replayOps k events) := by
  have side (j : Nat) : MicroOp.goto (.replay j) ≠ .complete ∧
      ∀ q, MicroOp.goto (.replay j) = .goto q → seqAfterFault q = seqAfterFault (.replay n) := by
    simp [seqAfterFault]
  induction events generalizing k with
  | nil => exact List.forall_mem_singleton.2 (side k)
  | cons e rest ih =>
    exact List.forall_mem_cons.2 ⟨side k, List.forall_mem_append.2 ⟨staysOn_eventOps _ e, ih (k + 1)⟩⟩

section
variable {s : State} {n : Nat} (source : s.seq = .replay n) (canFail : s.cfg.ioCanFail = true)
include source canFail

theorem startup_faults {body : List MicroOp} (stays : StaysOn (.replay n) body) (tail : List MicroOp) :
    FaultsInto .configFault (opsTrace body) s (conclude (runMicro (body ++ tail) s)) := by
  have faults := conclude_faultsInto (source ▸ stays) canFail tail
  rwa [source] at faults

theorem applyEvent_faults (e : ReplayEvent) : FaultsInto .configFault (eventTrace e) s (applyEvent n e s) :=
  opsTrace_eventOps e ▸ startup_faults source canFail (staysOn_eventOps _ e) [.goto (.replay (n + 1))]

theorem step_event_faults {e : ReplayEvent} (event : s.traceEvent n = some e) :
    FaultsInto .configFault (eventTrace e) s (step s) := by
  have applies : stepSeq s = applyEvent n e s := by simp [stepSeq, source, stepReplay, event]
  exact .of_stepSeq (applies ▸ applyEvent_faults source canFail e)

end

section
variable {s : State} (canFail : s.cfg.ioCanFail = true)
include canFail

theorem exec_replay_faults (start : s.seq = .replay 0) :
    FaultsInto .configFault (replayTrace (traceEvents s.cfg)) s (exec .replay s) := by
  have begins : exec .replay s = conclude (runMicro (replayOps 0 (traceEvents s.cfg) ++ []) s) := by
    rw [List.append_nil]
    exact if_pos (beq_iff_eq.2 start)
  rw [begins, ← opsTrace_replayOps 0]
  exact startup_faults start canFail (staysOn_replayOps 0 0 _) []

theorem exec_idleAssert_faults (last : s.seq = .replay s.traceLength) :
    FaultsInto .configFault idleAssertTrace s (exec .idleAssert s) := by
  have begins : exec .idleAssert s = conclude (runMicro idleAssertOps s) := if_pos (atTraceEnd_of_end last)
  have stays : StaysOn (.replay s.traceLength) [.setline .data true, .setline .clk true, .setline .en true] := by
    simp [StaysOn]
  rw [begins]
  exact startup_faults last canFail stays [.complete]

theorem step_end_faults (last : s.seq = .replay s.traceLength) : FaultsInto .configFault idleAssertTrace s (step s) := by
  have behind : s.traceEvent s.traceLength = none := List.getElem?_eq_none_iff.2 le_rfl
  have asserts : stepSeq s = exec .idleAssert s := by simp [stepSeq, last, stepReplay, behind]
  exact .of_stepSeq (asserts ▸ exec_idleAssert_faults canFail last)

end

/-- Settles O45: the micro-operations of each row of startup keep to the side on which a failed write leads to CONFIG_FAULT. -/
theorem startupFaultIsTerminal : Obligations.StartupFaultIsTerminal := by
  intro s canFail
  refine ⟨exec_replay_faults canFail, fun last => ⟨exec_idleAssert_faults canFail last, step_end_faults canFail last⟩,
    fun n e phase event => step_event_faults phase canFail event, fun n d c e ticks phase inside => ?_⟩
  rw [exec_traceEvent_of_inside phase inside]
  exact applyEvent_faults phase canFail _

end Sys2Proof.Machine

/-! PROOFS. What has been put out fits the phase (70_reset_and_hazards.md R342, 44_startup_replay.md R244, 60_exceptions.md
R306, R307): read off the legal moves, with what a step can do to the status codes. -/

namespace Sys2Proof.Machine

/-! ### A run goes on, or starts anew with nothing put out -/

/-- The output is that of a block at reset release (70_reset_and_hazards.md R342, 10_state.md R45). -/
def State.putOutNothing (s : State) : Prop := s.trace = [] ∧ s.delivered = []

theorem Runs.past_or_putOutNothing {s t : State} {a : Answer} (runs : Runs s a) (h : a = .next t) :
    t.past = s.past ∨ t.putOutNothing := by
  obtain ⟨u, rfl, still⟩ | ⟨ops, r, rfl, still, -⟩ := runs
  · cases h
    exact .inl still.past
  · obtain ⟨done, rest, n, -, outcome⟩ := conclude_cases ops r
    have past : (performAll done (r.afterDraws n)).past = s.past := (performAll_past done _).trans still.past
    obtain ⟨-, ha⟩ | ⟨id, v, -, -, -, ha⟩ | ⟨-, -, ha⟩ := outcome <;> cases ha.symm.trans h
    · exact .inl past
    · exact .inl past
    · exact .inr ⟨rfl, rfl⟩

theorem step_past_or_putOutNothing {s t : State} (h : step s = .next t) : t.past = s.past ∨ t.putOutNothing := by
  obtain ⟨-, hs⟩ | ⟨-, hs⟩ | ⟨-, hs⟩ | ⟨-, runs⟩ := step_cases s
  · cases hs.symm.trans h
    exact .inr ⟨rfl, rfl⟩
  · cases hs.symm.trans h
    exact .inl (load_extendsOutput s).1
  · cases hs.symm.trans h
    exact .inl rfl
  · exact runs.past_or_putOutNothing h

/-- A step that goes on extends the output; one that a reset ends leaves LOAD with nothing put out. -/
theorem step_extends_or_restarts {s t : State} (h : step s = .next t) :
    ExtendsOutput s t ∨ (t.seq = .load ∧ t.putOutNothing) := by
  obtain more | ⟨r, ended, -, -, target, -⟩ := step_keepsOutput h
  · exact .inl more
  · obtain goesOn | nothing := step_past_or_putOutNothing h
    · simp [goesOn] at ended
    · exact .inr ⟨target, nothing⟩

/-! ### The output of a phase -/

/-- The outputs that `OutputSound` admits in a state of the sequencer. -/
def FitsPhase (c : Setup) (trace : List Event) (delivered : List Status) : Seq → Prop
  | .load => trace = [] ∧ delivered = []
  | .replay k => trace = replayTrace ((traceEvents c).take k) ∧ delivered = []
  | .ready _ => delivered.head? = some .ok
  | .configFault => (delivered = [.configurationError] ∧ trace = []) ∨ delivered = [.transportFault]

theorem OutputSound.fitsPhase {s : State} (h : OutputSound s) : FitsPhase s.cfg s.trace s.delivered s.seq := by
  match source : s.seq with
  | .load => exact h.load source
  | .replay k => exact h.replay k source
  | .ready x => exact h.ready x source
  | .configFault => exact h.configFault source

theorem outputSound_of_fitsPhase {s : State} (sound : SequencerSound s)
    (h : FitsPhase s.cfg s.trace s.delivered s.seq) : OutputSound s where
  sound := sound
  load source := by rwa [source] at h
  replay k source := by rwa [source] at h
  ready x source := by rwa [source] at h
  configFault source := by rwa [source] at h

/-- The first `k + 1` events put out the first `k` and then event `k`. -/
theorem replayTrace_take_succ {events : List ReplayEvent} {k : Nat} {e : ReplayEvent} (applied : events[k]? = some e) :
    replayTrace (events.take (k + 1)) = replayTrace (events.take k) ++ eventTrace e := by
  simp [replayTrace, List.take_add_one, applied]

/-- The status of startup stays the first one of the run (10_state.md R45). -/
theorem OutputSound.ready_extends {s t : State} {x : Xfer} (h : OutputSound s) (source : s.seq = .ready x)
    (more : ExtendsOutput s t) : t.delivered.head? = some .ok := by
  obtain ⟨-, -, later, told⟩ := more
  rw [← told, List.head?_append, h.ready x source, Option.some_or]

/-- A legal move of a run that goes on leads to an output that fits the phase it leads to. -/
theorem LegalMove.fitsPhase {s t : State} (move : LegalMove s t) (h : OutputSound s) (more : ExtendsOutput s t) :
    FitsPhase s.cfg t.trace t.delivered t.seq := by
  cases move with
  | reset _ ended =>
    obtain ⟨r, ended⟩ := ended
    simp [more.1] at ended
  | loadFails source target _ out told =>
    obtain ⟨trace, delivered⟩ := h.load source
    rw [target, out, told, trace, delivered]
    exact .inl ⟨rfl, rfl⟩
  | loadPasses source target _ out told =>
    rw [target, out, told]
    exact h.load source
  | event k e source target applied out told =>
    obtain ⟨trace, delivered⟩ := h.replay k source
    rw [target, out, told, trace]
    exact ⟨(replayTrace_take_succ applied).symm, delivered⟩
  | startupDone source target _ told =>
    rw [target, told, (h.replay _ source).2]
    rfl
  | startupFault k source target failed =>
    obtain ⟨-, told, -⟩ := failed
    rw [target, told, (h.replay k source).2]
    exact .inr rfl
  | rejected _ _ _ source _ _ same =>
    have target : t.seq = .ready .idle := same ▸ source
    rw [target]
    exact h.ready_extends source more
  | waits _ _ _ same | configFault _ same =>
    rw [same]
    exact h.fitsPhase
  | transferred _ _ source target | commandFault _ _ source target | asserted source target | bit _ source _ target
  | lastBit _ source _ target | deasserted source target | transferFault _ _ source target =>
    rw [target]
    exact h.ready_extends source more

/-- Settles O56: a reset leaves LOAD with nothing put out, and every other legal move (R25) puts out what its target asks. -/
theorem stepKeepsOutputSound : Obligations.StepKeepsOutputSound := by
  intro s t h ht
  have cfg : t.cfg = s.cfg := step_keeps_cfg ht
  refine outputSound_of_fitsPhase (stepKeepsSequencerSound s t h.sound ht) ?_
  rw [cfg]
  obtain more | ⟨target, nothing⟩ := step_extends_or_restarts ht
  · exact (sequencerMovesLegally s t h.sound ht).fitsPhase h more
  · rw [target]
    exact nothing

end Sys2Proof.Machine

/-! PROOFS. Reset (70_reset_and_hazards.md R340, R344), before a step and in the middle of a transfer, and the startup that
follows it (R342, R343). -/

namespace Sys2Proof.Machine

/-- Settles O8: a step in whose place a reset comes is `applyReset`. -/
theorem resetRestartsFromEveryState : Obligations.ResetRestartsFromEveryState :=
  fun s reset => ⟨_, step_of_reset s reset, rfl, rfl, rfl, rfl, rfl, rfl, rfl, rfl, rfl, rfl⟩

/-! ### A reset inside an operation (R344) -/

theorem attempt_of_reset {op : MicroOp} {s : State} (disturbable : opTrace op ≠ []) (draw : s.env.head? = some .reset) :
    attempt op s = .stop (s.afterDraws 1) .reset := by
  have env : s.env = .reset :: s.env.tail := List.eq_cons_of_mem_head? draw
  cases op with
  | setline id v =>
    rw [attempt, trySetline, env]
    simp [State.afterDraws]
  | delay t =>
    rw [attempt, tryDelay, env]
    simp [State.afterDraws]
  | goto q => exact absurd rfl disturbable
  | complete => exact absurd rfl disturbable

/-- A reset in place of `op`, behind draws that let all before it pass. -/
theorem runMicro_of_reset {done rest : List MicroOp} {op : MicroOp} {s : State} (disturbable : opTrace op ≠ [])
    (pass : ∀ j, j < drawsUsed done → s.env[j]? = some .pass) (reset : s.env[drawsUsed done]? = some .reset) :
    runMicro (done ++ op :: rest) s = .stop (performAll done (s.afterDraws (drawsUsed done + 1))) .reset := by
  rw [runMicro_passes done _ s pass, performAll_afterDraws, performAll_afterDraws, runMicro]
  obtain ⟨-, -, -, -, -, -, -, -, env, -⟩ := performAll_keeps done s
  have draw : ((performAll done s).afterDraws (drawsUsed done)).env.head? = some .reset := by
    rw [State.afterDraws, env, List.head?_drop, reset]
  rw [attempt_of_reset disturbable draw]
  simp [State.afterDraws]

/-- A reset in place of event `k` of `body`, whatever would come after: the record has what was put out before it, and the
block is at reset release. -/
theorem conclude_cut_by_reset {body : List MicroOp} {s : State} {k : Nat} (stays : StaysOn s.seq body)
    (tail : List MicroOp) (inside : k < (opsTrace body).length) (pass : ∀ j, j < k → s.env[j]? = some .pass)
    (reset : s.env[k]? = some .reset) :
    conclude (runMicro (body ++ tail) s) = .next (State.atReset s.cfg
      (s.past ++ [{ trace := s.trace ++ (opsTrace body).take k, delivered := s.delivered }]) s.port
      (s.env.drop (k + 1))) := by
  obtain ⟨done, op, rest, rfl, sent, out⟩ := opsTrace_split body k _ (List.getElem?_eq_getElem inside)
  have draws : drawsUsed done = k := by rw [drawsUsed, sent, List.length_take_of_le inside.le]
  subst draws
  have disturbable : opTrace op ≠ [] := fun silent => List.cons_ne_nil _ _ (out.symm.trans silent)
  rw [List.append_assoc, List.cons_append, runMicro_of_reset disturbable pass reset, ← sent]
  have part : StaysOn s.seq done := fun op mem => stays op (List.mem_append_left _ mem)
  obtain ⟨-, told⟩ := performAll_staysOn done (s.afterDraws (drawsUsed done + 1)) part
  obtain ⟨cfg, -, -, -, -, -, -, port, env, -, past, trace⟩ :=
    performAll_keeps done (s.afterDraws (drawsUsed done + 1))
  rw [conclude, State.applyReset, cfg, port, env, past, trace, told]
  rfl

/-- Settles O39: every event of `T(SR)` stands before the end of SHIFTOUT, the one micro-operation that delivers a status. -/
theorem resetCutsTheTransferShort : Obligations.ResetCutsTheTransferShort := by
  intro s k ready inside pass reset
  have begins : exec .shiftout s = conclude (runMicro (shiftoutBody s.cfg.profile s.srBit ++ [.complete]) s) := by
    rw [← shiftoutOps_eq]
    exact when_ready s ready _
  have out : opsTrace (shiftoutBody s.cfg.profile s.srBit) = transferTrace s.cfg.profile.timing s.shiftBits :=
    opsTrace_shiftoutBody _ _
  have stays : StaysOn s.seq (shiftoutBody s.cfg.profile s.srBit) := ready ▸ staysOn_shiftoutBody .idle _ _
  rw [begins, conclude_cut_by_reset stays [.complete] (out ▸ inside) pass reset, out]
  exact ⟨_, rfl, rfl, rfl, rfl, rfl, rfl, rfl, rfl⟩

/-! ### The startup sequence (R342, R343) -/

theorem noReset_of_undisturbed {s : State} (free : s.undisturbed = true) : s.env.head? ≠ some .reset := by
  intro draw
  have passes : harmless s.cfg.ioCanFail .reset = true := List.all_eq_true.1 free _ (List.mem_of_head? draw)
  cases passes

/-- The state after event `e` is applied undisturbed as event `k` of the trace (44_startup_replay.md R242, R243). -/
def State.afterEvent (s : State) (k : Nat) (e : ReplayEvent) : State :=
  { s with
    lines := e.lines
    seq := .replay (k + 1)
    trace := s.trace ++ eventTrace e
    env := s.env.drop (eventTrace e).length
    result := .done }

/-- What is still coming of an environment that disturbs nothing disturbs nothing. -/
theorem undisturbed_afterEvent {s : State} (free : s.undisturbed = true) (k : Nat) (e : ReplayEvent) :
    (s.afterEvent k e).undisturbed = true :=
  List.all_eq_true.2 fun d coming => List.all_eq_true.1 free d (List.mem_of_mem_drop coming)

theorem step_event_undisturbed {s : State} {k : Nat} {e : ReplayEvent} (source : s.seq = .replay k)
    (event : s.traceEvent k = some e) (free : s.undisturbed = true) : step s = .next (s.afterEvent k e) := by
  have applies : stepSeq s = applyEvent k e s := by simp [stepSeq, source, stepReplay, event]
  rw [step_without_reset s (noReset_of_undisturbed free), applies]
  exact applyEvent_undisturbed free k e

/-- The state after a startup that puts out `events` undisturbed (44_startup_replay.md R244, R245). -/
def State.afterStartup (s : State) (events : List Event) : State :=
  { s with
    lines := { data := true, clk := true, en := true }
    seq := .ready .idle
    delivered := s.delivered ++ [.ok]
    trace := s.trace ++ events
    env := s.env.drop events.length
    result := .done
    faulted := false }

theorem step_end_undisturbed {s : State} (last : s.seq = .replay s.traceLength) (free : s.undisturbed = true) :
    step s = .next (s.afterStartup idleAssertTrace) := by
  have behind : s.traceEvent s.traceLength = none := List.getElem?_eq_none_iff.2 le_rfl
  have asserts : stepSeq s = exec .idleAssert s := by simp [stepSeq, last, stepReplay, behind]
  rw [step_without_reset s (noReset_of_undisturbed free), asserts]
  exact idleAssertEndsStartup s last free

/-- An event, and then a startup, is a startup that puts out the event first. -/
theorem afterStartup_afterEvent (s : State) (k : Nat) (e : ReplayEvent) (events : List Event) :
    (s.afterEvent k e).afterStartup events = s.afterStartup (eventTrace e ++ events) := by
  simp [State.afterStartup, State.afterEvent]

/-- From REPLAY behind the events `done`, one step for each event that is left and one for IDLE_ASSERT. -/
theorem run_replay (rest : List ReplayEvent) {s : State} {done : List ReplayEvent}
    (split : traceEvents s.cfg = done ++ rest) (source : s.seq = .replay done.length) (free : s.undisturbed = true) :
    Host.Core.run Sys2Proof.core (rest.length + 1) s = .next (s.afterStartup (replayTrace rest ++ idleAssertTrace)) := by
  induction rest generalizing s done with
  | nil =>
    have last : s.seq = .replay s.traceLength := by simp [source, State.traceLength, split]
    exact run_succ Sys2Proof.core 0 s _ (step_end_undisturbed last free)
  | cons e rest ih =>
    have event : s.traceEvent done.length = some e := by simp [State.traceEvent, split]
    have out : replayTrace (e :: rest) = eventTrace e ++ replayTrace rest := List.flatMap_cons
    have after := ih (s := s.afterEvent done.length e) (done := done ++ [e])
      (split.trans (List.append_cons ..)) (by simp [State.afterEvent]) (undisturbed_afterEvent free _ e)
    rw [afterStartup_afterEvent, ← List.append_assoc, ← out] at after
    exact (run_succ Sys2Proof.core _ s _ (step_event_undisturbed source event free)).trans after

/-- Settles O60: LOAD passes into REPLAY(0), and `run_replay` goes on behind no event. -/
theorem startupReachesReady : Obligations.StartupReachesReady := by
  intro s source check free events
  have loads : step s = .next (s.goto (.replay 0)) := by
    rw [step_of_load source (noReset_of_undisturbed free), load_passes check]
  exact (run_succ Sys2Proof.core _ s _ loads).trans (run_replay (traceEvents s.cfg) (done := []) rfl rfl free)

end Sys2Proof.Machine
